-- ==== Sys2Proof/Word.lean ====
section
/-! DEFINITION. The word sizes of the block (spec/00_scope.md R19). -/

namespace Sys2Proof

/-- A byte: every register of the register space is made of these (R19, R70). -/
abbrev Byte := BitVec 8

/-- The microsecond accumulator's width (R19, R37). -/
abbrev Half := BitVec 16

/-- A command word, the response `res`, ARG, the millisecond counter (R19). -/
abbrev Word := BitVec 32

/-- A register-space address (R19, R70). -/
abbrev Addr := BitVec 12

/-- A pin identifier: 0 to N_PINS-1 name pins, 0xFF is null (R27). -/
abbrev PinId := BitVec 8

/-- The source's "null/absent descriptor" (R10, R27). -/
abbrev nullPin : PinId := 0xFF#8

end Sys2Proof
end

