-- ==== Sys2Proof/Config.lean ====
section
/-! DEFINITION. The configuration of the block (spec/00_scope.md R7 to R9, spec/10_state.md R28, R29), its
constraints, the free values the spec leaves open, and the one configuration the spec writes out (REFCFG). -/

namespace Sys2Proof

/-- A pin's descriptor (R28): immutable, one per pin. A handle that is present holds its port's index. -/
structure PinDescriptor where
  /-- "alternate-function selector code" -/
  af    : Byte
  /-- whether the pin has an output-routing register ROUTE[i] -/
  route : Bool
  /-- the bit the pin occupies in every register of its port -/
  mask  : Byte
  /-- handle of the direction register DIR[dir] -/
  dir   : Option Nat
  /-- handle of the port-input register PORTIN[port] -/
  port  : Option Nat
  /-- handle of the analog-select register ANSEL[ansel] -/
  ansel : Option Nat
  /-- handle of the output-latch register LAT[lat] -/
  lat   : Option Nat
  deriving DecidableEq, Repr

/-- One baud tier (R166): its scale and the closed band of divisors it accepts. -/
structure Tier where
  scale : Nat
  min   : Nat
  max   : Nat
  deriving DecidableEq, Repr

/-- One row of FREQ_TABLE (R8). OSC_BITS is read by no rule (R5, U23). -/
structure FreqRow where
  freq     : Nat
  prescale : Byte
  tickUs   : Nat
  oscBits  : Nat
  deriving DecidableEq, Repr

/-- Which UART environment drives the block's inputs: the reference one (R269), or any peripheral that keeps
the contract (R266 to R268, R270). DESIGN CHOICE (notes/assumptions/5.md): the spec gives both. -/
inductive UartEnv where
  | reference
  | contract
  deriving DecidableEq, Repr

/-- A value of every parameter of R8. MS_WIDTH is the constant 32 (D13); N_PINS is `nPins`, N_TIERS is
`tiers.length`. -/
structure Config where
  /-- F_CLK -/
  fClk           : Nat
  /-- SUPPORTED_FREQS -/
  supportedFreqs : List Nat
  /-- FREQ_TABLE -/
  freqTable      : List FreqRow
  /-- N_PORTS -/
  nPorts         : Nat
  /-- PINMAP: the descriptor of pin i at index i -/
  pinMap         : List PinDescriptor
  /-- RX_CAP -/
  rxCap          : Nat
  /-- TX_CAP -/
  txCap          : Nat
  /-- TIER_SCALE, TIER_MIN, TIER_MAX, "coarsest first" -/
  tiers          : List Tier
  /-- TX_FUNC_CODE -/
  txFuncCode     : Byte
  /-- DEVICE_NAME, 16 bytes -/
  deviceName     : List Byte
  /-- RXF_DEPTH, used by the reference UART environment only -/
  rxfDepth       : Nat
  /-- RX_RESET_FLUSH (R270, U16) -/
  rxResetFlush   : Bool
  /-- the UART environment (R265 to R271) -/
  uartEnv        : UartEnv
  deriving DecidableEq, Repr

/-- N_PINS (R8). -/
abbrev Config.nPins (c : Config) : Nat := c.pinMap.length

/-- FREQ_TABLE[F_CLK], if the table has such a row (R8, R9). -/
def Config.freqRow (c : Config) : Option FreqRow :=
  c.freqTable.find? (fun r => r.freq == c.fClk)

/-- PRESCALE, the shorthand for FREQ_TABLE[F_CLK].PRESCALE (R8). -/
def Config.prescale (c : Config) : Byte := (c.freqRow.map (·.prescale)).getD 0

/-- TICK_US, the shorthand for FREQ_TABLE[F_CLK].TICK_US (R8). -/
def Config.tickUs (c : Config) : Nat := (c.freqRow.map (·.tickUs)).getD 0

/-- A handle, if present, is a port index 0..N_PORTS-1 (R28). -/
def Config.handleOk (c : Config) (h : Option Nat) : Bool :=
  h.all (fun p => decide (p < c.nPorts))

/-- The handles of a descriptor are port indexes (R28). -/
def Config.descriptorOk (c : Config) (d : PinDescriptor) : Bool :=
  c.handleOk d.dir && c.handleOk d.port && c.handleOk d.ansel && c.handleOk d.lat

/-- A tier's own constraints: a positive scale, and a band inside the 16-bit divisor (R166). -/
def Tier.ok (t : Tier) : Bool := decide (0 < t.scale) && decide (t.max ≤ 65535)

/-- The tiers stand "coarsest first": strictly decreasing scales (R8, R166). -/
def Config.tiersDecrease (c : Config) : Bool :=
  decide (c.tiers.Pairwise (fun a b => b.scale < a.scale))

/-- A value of the parameters that R8 and R9 allow; anything else "is not a configuration" and the machine
refuses it (R9, U9). The well-formedness of PINMAP (R29) is not part of it: the pin rules are total, and an
ill-formed map runs by them (R29, U10; `Config.pinMapWf`). -/
def Config.ok (c : Config) : Bool :=
  decide (
    0 < c.fClk ∧ c.fClk < 2 ^ 32 ∧ c.fClk ∈ c.supportedFreqs ∧ c.freqRow.isSome = true
      ∧ (∀ r ∈ c.freqTable, 1 ≤ r.tickUs ∧ r.tickUs ≤ 64535)
      ∧ 1 ≤ c.nPorts ∧ c.nPorts ≤ 8 ∧ 1 ≤ c.nPins ∧ c.nPins ≤ 64
      ∧ (∀ d ∈ c.pinMap, c.descriptorOk d = true)
      ∧ 1 ≤ c.rxCap ∧ c.rxCap ≤ 255 ∧ 1 ≤ c.txCap ∧ c.txCap ≤ 255
      ∧ 1 ≤ c.tiers.length ∧ c.tiers.length ≤ 4 ∧ (∀ t ∈ c.tiers, t.ok = true) ∧ c.tiersDecrease = true
      ∧ c.deviceName.length = 16)

/-- A mask with exactly one bit set (R29 (b)). -/
def oneHot (m : Byte) : Bool := (List.range 8).any (fun k => m == 1#8 <<< k)

/-- R29 (a) to (c) for one descriptor: the port handle is present, the mask is one-hot, every other handle
that is present holds the same port index. -/
def PinDescriptor.wf (d : PinDescriptor) : Bool :=
  d.port.isSome && oneHot d.mask
    && (d.dir.isNone || d.dir == d.port)
    && (d.ansel.isNone || d.ansel == d.port)
    && (d.lat.isNone || d.lat == d.port)

/-- PINMAP is well-formed (R29 (a) to (d)). The step does not require it (U10). -/
def Config.pinMapWf (c : Config) : Bool :=
  c.pinMap.all PinDescriptor.wf
    && decide (c.pinMap.Pairwise (fun a b => (a.port, a.mask) ≠ (b.port, b.mask)))

/-! ## Free values

Constants without a body: nothing can evaluate them or prove a value of them. Each takes plain counters of
State, so that a new draw is a new value. -/

/-- The value of the n-th draw of `any` (R11): a port-input byte (R33, R273, U5), the byte sent beyond the
buffer (R195, R203, U7), the framing line of a contract peripheral that holds no byte (R267). -/
opaque Config.freeByte : Nat → BitVec 8

/-- ARG after the n-th reset (R53, U6). -/
opaque Config.resetArg : Nat → BitVec 32

/-- LAT[p] after the n-th reset (R53, U6): first argument n, second p. -/
opaque Config.resetLat : Nat → Nat → BitVec 8

/-- TMRMS after the n-th reset (R53, U6). -/
opaque Config.resetTmrms : Nat → BitVec 32

/-- TMRUS after the n-th reset: any 16-bit value, possibly 1000 or more (R53, U6). -/
opaque Config.resetTmrus : Nat → BitVec 16

/-- A byte of RXQBUF or TXQBUF that nothing has written since the n-th reset (R53, U6): first argument n,
second the byte's register-space address. -/
opaque Config.resetBuffer : Nat → Nat → BitVec 8

/-! ## REFCFG -/

/-- REFMAP (spec/95_test_vectors.md section 0). -/
def refMap : List PinDescriptor :=
  [ { af := 0x00, route := true,  mask := 0x01, dir := some 0, port := some 0, ansel := some 0, lat := some 0 },
    { af := 0x01, route := true,  mask := 0x02, dir := some 0, port := some 0, ansel := some 0, lat := some 0 },
    { af := 0x03, route := false, mask := 0x08, dir := none,   port := some 0, ansel := none,   lat := none },
    { af := 0x14, route := true,  mask := 0x10, dir := some 1, port := some 1, ansel := some 1, lat := some 1 },
    { af := 0x15, route := true,  mask := 0x20, dir := some 1, port := some 1, ansel := none,   lat := some 1 },
    { af := 0x16, route := false, mask := 0x40, dir := some 1, port := some 1, ansel := some 1, lat := some 1 } ]

/-- The default tier table (R168). -/
def defaultTiers : List Tier := [⟨64, 10, 254⟩, ⟨16, 10, 65535⟩, ⟨4, 2, 65535⟩]

/-- REFCFG (spec/95_test_vectors.md section 0): the configuration of `State.reset`, which takes no argument.
DESIGN CHOICE (notes/assumptions/1.md): claims are stated for every configuration, through State's field. -/
def Config.ref : Config where
  fClk := 8000000
  supportedFreqs := [8000000]
  freqTable := [⟨8000000, 0x02, 1024, 0⟩]
  nPorts := 2
  pinMap := refMap
  rxCap := 4
  txCap := 4
  tiers := defaultTiers
  txFuncCode := 0x24
  deviceName := [0x52, 0x45, 0x46, 0x43, 0x46, 0x47, 0x2D, 0x44, 0x45, 0x56, 0x49, 0x43, 0x45, 0x2D, 0x30, 0x30]
  rxfDepth := 2
  rxResetFlush := true
  uartEnv := .reference

end Sys2Proof
end

