-- ==== Sys2Proof/Syntax.lean ====
section
/-! DEFINITION. The thirteen commands (spec/30_encoding.md R103), the pseudo-instructions (R113), and the names a
command word can be rejected under (spec/60_exceptions.md R247). -/

namespace Sys2Proof

/-- One constructor per row of the opcode table (R103). Operands are decoded fields: an 8-bit pin identifier
(R104), a flag (R105), a 12-bit address and a data byte (R106). -/
inductive Instr where
  /-- NOP (R215) -/
  | nop
  /-- PINDIR pin, flag: flag true = output (R131) -/
  | pindir (pin : PinId) (out : Bool)
  /-- PINRD pin (R132) -/
  | pinrd (pin : PinId)
  /-- PINWR pin, flag: flag true = high (R133) -/
  | pinwr (pin : PinId) (level : Bool)
  /-- PINANA pin, flag: flag true = analog (R134) -/
  | pinana (pin : PinId) (ana : Bool)
  /-- TMRINIT (R151) -/
  | tmrinit
  /-- TMRTICK (R152, R153) -/
  | tmrtick
  /-- SERINIT rcpin, txpin (R171) -/
  | serinit (rc : PinId) (tx : PinId)
  /-- SERPROC (R190) -/
  | serproc
  /-- CRITENT (R216) -/
  | critent
  /-- CRITEXIT flag (R217) -/
  | critexit (gie : Bool)
  /-- LDB addr (R224) -/
  | ldb (addr : Addr)
  /-- STB addr, imm8 (R225) -/
  | stb (addr : Addr) (data : Byte)
  deriving DecidableEq, Repr

/-- The names under which a command is dropped (R247). -/
inductive Cause where
  /-- 1: op is not one of the thirteen (R108) -/
  | illegalOpcode
  /-- 2: a reserved field of the format is not zero (R107) -/
  | reservedField
  /-- 3: a pin field is neither null nor below N_PINS (R104) -/
  | invalidPin
  /-- 4: TMRTICK on the command port (R153) -/
  | wrongContext
  /-- 5: LDB or STB to an address outside the map (R72) -/
  | unmappedAddress
  deriving DecidableEq, Repr

/-- The pseudo-instructions (R113). -/
inductive Pseudo where
  | pinout (pin : PinId)
  | pinin (pin : PinId)
  | pinhi (pin : PinId)
  | pinlo (pin : PinId)
  | stw (addr : Addr) (imm : Word)
  | sth (addr : Addr) (imm : Half)
  | ldw (addr : Addr)
  | setbaud (imm : Word)
  deriving DecidableEq, Repr

end Sys2Proof
end

