-- ==== Sys2Proof/Decode.lean ====
section
/-! DEFINITION. Decoding a command word (spec/30_encoding.md R100 to R109), decoding its operands (a pin
identifier R27, R104; a register-space address R71, R72), and the encoder. -/

namespace Sys2Proof

/-! ## Fields and formats -/

/-- op = w[31:24] (R101). -/
def opField (w : Word) : Byte := w.extractLsb' 24 8

/-- a = w[23:16] (R101). -/
def aField (w : Word) : Byte := w.extractLsb' 16 8

/-- b = w[15:8] (R101). -/
def bField (w : Word) : Byte := w.extractLsb' 8 8

/-- c = w[7:0] (R101). -/
def cField (w : Word) : Byte := w.extractLsb' 0 8

/-- The word with the four given fields (R101). -/
def packWord (op a b c : Byte) : Word := op ++ a ++ b ++ c

/-- addr = {a[3:0], b} (R106). -/
def addrOf (a b : Byte) : Addr := a.extractLsb' 0 4 ++ b

/-- The seven formats (R102). -/
inductive Format where
  | n | p | pi | s | i | a | ad
  deriving DecidableEq, Repr

/-- Every field a format does not use is zero (R102, R105 to R107). -/
def Format.reservedZero (f : Format) (a b c : Byte) : Bool :=
  match f with
  | .n  => a == 0 && b == 0 && c == 0
  | .p  => b == 0 && c == 0
  | .pi => b == 0 && c.extractLsb' 1 7 == 0
  | .s  => c == 0
  | .i  => a == 0 && b == 0 && c.extractLsb' 1 7 == 0
  | .a  => a.extractLsb' 4 4 == 0 && c == 0
  | .ad => a.extractLsb' 4 4 == 0

/-- The rows of the opcode map by name (R103). -/
inductive Mnemonic where
  | nop | pindir | pinrd | pinwr | pinana | tmrinit | tmrtick | serinit | serproc | critent | critexit | ldb | stb
  deriving DecidableEq, Repr

/-- Column "op" of R103. -/
def Mnemonic.op : Mnemonic → Byte
  | .nop => 0x00
  | .pindir => 0x01
  | .pinrd => 0x02
  | .pinwr => 0x03
  | .pinana => 0x04
  | .tmrinit => 0x10
  | .tmrtick => 0x11
  | .serinit => 0x20
  | .serproc => 0x21
  | .critent => 0x30
  | .critexit => 0x31
  | .ldb => 0x40
  | .stb => 0x41

/-- Column "format" of R103. -/
def Mnemonic.format : Mnemonic → Format
  | .nop => .n
  | .pindir => .pi
  | .pinrd => .p
  | .pinwr => .pi
  | .pinana => .pi
  | .tmrinit => .n
  | .tmrtick => .n
  | .serinit => .s
  | .serproc => .n
  | .critent => .n
  | .critexit => .i
  | .ldb => .a
  | .stb => .ad

/-- Column "match" of R103. -/
def Mnemonic.matchWord : Mnemonic → Word
  | .nop => 0x00000000
  | .pindir => 0x01000000
  | .pinrd => 0x02000000
  | .pinwr => 0x03000000
  | .pinana => 0x04000000
  | .tmrinit => 0x10000000
  | .tmrtick => 0x11000000
  | .serinit => 0x20000000
  | .serproc => 0x21000000
  | .critent => 0x30000000
  | .critexit => 0x31000000
  | .ldb => 0x40000000
  | .stb => 0x41000000

/-- Column "mask" of R103. -/
def Mnemonic.mask : Mnemonic → Word
  | .nop => 0xFFFFFFFF
  | .pindir => 0xFF00FFFE
  | .pinrd => 0xFF00FFFF
  | .pinwr => 0xFF00FFFE
  | .pinana => 0xFF00FFFE
  | .tmrinit => 0xFFFFFFFF
  | .tmrtick => 0xFFFFFFFF
  | .serinit => 0xFF0000FF
  | .serproc => 0xFFFFFFFF
  | .critent => 0xFFFFFFFF
  | .critexit => 0xFFFFFFFE
  | .ldb => 0xFFF000FF
  | .stb => 0xFFF00000

/-- The opcode map, or none for the opcodes of R108. -/
def Mnemonic.ofOp (op : Byte) : Option Mnemonic :=
  match op.toNat with
  | 0x00 => some .nop
  | 0x01 => some .pindir
  | 0x02 => some .pinrd
  | 0x03 => some .pinwr
  | 0x04 => some .pinana
  | 0x10 => some .tmrinit
  | 0x11 => some .tmrtick
  | 0x20 => some .serinit
  | 0x21 => some .serproc
  | 0x30 => some .critent
  | 0x31 => some .critexit
  | 0x40 => some .ldb
  | 0x41 => some .stb
  | _ => none

/-- The instruction a row reads from the fields a, b, c (R102, R104 to R106). -/
def Mnemonic.build (m : Mnemonic) (a b c : Byte) : Instr :=
  match m with
  | .nop => .nop
  | .pindir => .pindir a (c.getLsbD 0)
  | .pinrd => .pinrd a
  | .pinwr => .pinwr a (c.getLsbD 0)
  | .pinana => .pinana a (c.getLsbD 0)
  | .tmrinit => .tmrinit
  | .tmrtick => .tmrtick
  | .serinit => .serinit a b
  | .serproc => .serproc
  | .critent => .critent
  | .critexit => .critexit (c.getLsbD 0)
  | .ldb => .ldb (addrOf a b)
  | .stb => .stb (addrOf a b) c

/-- The decoder's first two checks (R109): the word's instruction, or the name it is rejected under. The
checks 3 to 5 need the configuration and are `portCause`. -/
def decode (w : Word) : Except Cause Instr :=
  match Mnemonic.ofOp (opField w) with
  | none => .error .illegalOpcode
  | some m =>
    if m.format.reservedZero (aField w) (bField w) (cField w) then
      .ok (m.build (aField w) (bField w) (cField w))
    else .error .reservedField

/-- See the interface: the instruction the decoder reads from an opcode-table word. A command word is
presented whole and has no byte order (R74, R100). -/
def decodeTableWord (nbits w : Nat) : Option Instr :=
  match decode (BitVec.ofNat 32 (w % 2 ^ nbits)) with
  | .ok i => some i
  | .error _ => none

/-! ## The encoder -/

/-- The row of R103 an instruction belongs to. -/
def Instr.mnemonic : Instr → Mnemonic
  | .nop => .nop
  | .pindir _ _ => .pindir
  | .pinrd _ => .pinrd
  | .pinwr _ _ => .pinwr
  | .pinana _ _ => .pinana
  | .tmrinit => .tmrinit
  | .tmrtick => .tmrtick
  | .serinit _ _ => .serinit
  | .serproc => .serproc
  | .critent => .critent
  | .critexit _ => .critexit
  | .ldb _ => .ldb
  | .stb _ _ => .stb

/-- A flag in c[0], c[7:1] zero (R105). -/
def flagByte (f : Bool) : Byte := 0#7 ++ BitVec.ofBool f

/-- Field a of an address: {0000, addr[11:8]} (R106). -/
def addrHigh (addr : Addr) : Byte := 0#4 ++ addr.extractLsb' 8 4

/-- Field b of an address: addr[7:0] (R106). -/
def addrLow (addr : Addr) : Byte := addr.extractLsb' 0 8

/-- The word of an instruction (R102, R103). -/
def encode : Instr → Word
  | .nop => packWord 0x00 0 0 0
  | .pindir pin out => packWord 0x01 pin 0 (flagByte out)
  | .pinrd pin => packWord 0x02 pin 0 0
  | .pinwr pin level => packWord 0x03 pin 0 (flagByte level)
  | .pinana pin ana => packWord 0x04 pin 0 (flagByte ana)
  | .tmrinit => packWord 0x10 0 0 0
  | .tmrtick => packWord 0x11 0 0 0
  | .serinit rc tx => packWord 0x20 rc tx 0
  | .serproc => packWord 0x21 0 0 0
  | .critent => packWord 0x30 0 0 0
  | .critexit gie => packWord 0x31 0 0 (flagByte gie)
  | .ldb addr => packWord 0x40 (addrHigh addr) (addrLow addr) 0
  | .stb addr data => packWord 0x41 (addrHigh addr) (addrLow addr) data

/-- What a pseudo-instruction stands for (R113). ARG is at 0x018 (R71); `addr+k` is taken modulo the 12-bit
address space (R10). -/
def Pseudo.expand : Pseudo → List Instr
  | .pinout pin => [.pindir pin true]
  | .pinin pin => [.pindir pin false]
  | .pinhi pin => [.pinwr pin true]
  | .pinlo pin => [.pinwr pin false]
  | .stw addr imm =>
    [.stb addr (imm.extractLsb' 0 8), .stb (addr + 1) (imm.extractLsb' 8 8),
     .stb (addr + 2) (imm.extractLsb' 16 8), .stb (addr + 3) (imm.extractLsb' 24 8)]
  | .sth addr imm => [.stb addr (imm.extractLsb' 0 8), .stb (addr + 1) (imm.extractLsb' 8 8)]
  | .ldw addr => [.ldb addr, .ldb (addr + 1), .ldb (addr + 2), .ldb (addr + 3)]
  | .setbaud imm =>
    [.stb 0x018 (imm.extractLsb' 0 8), .stb 0x019 (imm.extractLsb' 8 8),
     .stb 0x01A (imm.extractLsb' 16 8), .stb 0x01B (imm.extractLsb' 24 8)]

/-! ## Pin operands -/

/-- What an 8-bit pin identifier names (R27, R104). -/
inductive PinOperand where
  /-- 0xFF -/
  | null
  /-- pin i, with its descriptor PINMAP[i] -/
  | pin (i : Nat) (d : PinDescriptor)
  /-- a value in N_PINS..0xFE -/
  | invalid
  deriving DecidableEq, Repr

/-- Descriptor lookup (R27, R130). -/
def pinOperand (c : Config) (p : PinId) : PinOperand :=
  if p = nullPin then .null
  else
    match c.pinMap[p.toNat]? with
    | some d => .pin p.toNat d
    | none => .invalid

/-- A pin field that is null or below N_PINS (R104, R109 check 3). -/
def pinOk (c : Config) (p : PinId) : Bool := pinOperand c p != .invalid

/-! ## Addresses -/

/-- The bytes of the register space by name (R71). A register wider than a byte has one name per byte, byte 0
the least significant (R74). -/
inductive Reg where
  | ictl | iflg | uctl | usta | brgl | brgh | rxsel | tpre | stat | serr | rxqlen | txqlen | txqcur
  | tmrms (k : Nat)
  | tmrus (k : Nat)
  | rcbound | txbound
  | arg (k : Nat)
  | cfgfreq (k : Nat)
  | cfgdev (k : Nat)
  | dir (p : Nat)
  | portin (p : Nat)
  | ansel (p : Nat)
  | lat (p : Nat)
  | route (i : Nat)
  | rxqbuf (k : Nat)
  | txqbuf (k : Nat)
  deriving DecidableEq, Repr

/-- The four registers of a port, at 0x040 + 4p (R71). -/
def portReg (j : Nat) : Reg :=
  match j % 4 with
  | 0 => .dir (j / 4)
  | 1 => .portin (j / 4)
  | 2 => .ansel (j / 4)
  | _ => .lat (j / 4)

/-- One row of the address map: `count` bytes from `base`, the k-th of them named by `reg k`. -/
structure MapRow where
  base  : Nat
  count : Nat
  reg   : Nat → Reg

/-- The address map (R71), row by row as the spec lists it, but for the ROUTE rows (`regAt`). -/
def addressMap (c : Config) : List MapRow :=
  [ ⟨0x000, 1, fun _ => .ictl⟩,
    ⟨0x001, 1, fun _ => .iflg⟩,
    ⟨0x002, 1, fun _ => .uctl⟩,
    ⟨0x003, 1, fun _ => .usta⟩,
    ⟨0x004, 1, fun _ => .brgl⟩,
    ⟨0x005, 1, fun _ => .brgh⟩,
    ⟨0x006, 1, fun _ => .rxsel⟩,
    ⟨0x007, 1, fun _ => .tpre⟩,
    ⟨0x008, 1, fun _ => .stat⟩,
    ⟨0x00C, 1, fun _ => .serr⟩,
    ⟨0x00D, 1, fun _ => .rxqlen⟩,
    ⟨0x00E, 1, fun _ => .txqlen⟩,
    ⟨0x00F, 1, fun _ => .txqcur⟩,
    ⟨0x010, 4, .tmrms⟩,
    ⟨0x014, 2, .tmrus⟩,
    ⟨0x016, 1, fun _ => .rcbound⟩,
    ⟨0x017, 1, fun _ => .txbound⟩,
    ⟨0x018, 4, .arg⟩,
    ⟨0x020, 4, .cfgfreq⟩,
    ⟨0x030, 16, .cfgdev⟩,
    ⟨0x040, 4 * c.nPorts, portReg⟩,
    ⟨0x080, c.nPins, .route⟩,
    ⟨0x100, c.rxCap, .rxqbuf⟩,
    ⟨0x200, c.txCap, .txqbuf⟩ ]

/-- Whether pin i has an output-routing register (R28, R34). -/
def Config.hasRoute (c : Config) (i : Nat) : Bool := (c.pinMap[i]?).any (·.route)

/-- ROUTE[i] is mapped only where PINMAP[i].route is present (R71, R72). -/
def Config.regExists (c : Config) : Reg → Bool
  | .route i => c.hasRoute i
  | _ => true

/-- The register byte at an address, or none where the address is unmapped (R71, R72). -/
def regAt (c : Config) (a : Addr) : Option Reg :=
  ((addressMap c).find? (fun r => decide (r.base ≤ a.toNat) && decide (a.toNat < r.base + r.count))).bind
    (fun r => (some (r.reg (a.toNat - r.base))).filter c.regExists)

/-! ## The checks of the command port -/

/-- Checks 3 to 5 of R109, in their order, for a decoded word: the cause it is dropped with, or none. A
command-port word is always presented in background context (R110), so TMRTICK always fails check 4. -/
def portCause (c : Config) (i : Instr) : Option Cause :=
  match i with
  | .pindir p _ | .pinrd p | .pinwr p _ | .pinana p _ => if pinOk c p then none else some .invalidPin
  | .serinit rc tx => if pinOk c rc && pinOk c tx then none else some .invalidPin
  | .tmrtick => some .wrongContext
  | .ldb a | .stb a _ => if (regAt c a).isSome then none else some .unmappedAddress
  | .nop | .tmrinit | .serproc | .critent | .critexit _ => none

/-- All five checks of R109: the command a word is, or the one cause it is dropped with. -/
def decodeCommand (c : Config) (w : Word) : Except Cause Instr :=
  match decode w with
  | .error e => .error e
  | .ok i =>
    match portCause c i with
    | some e => .error e
    | none => .ok i

end Sys2Proof
end

