-- ==== Sys2Proof/Machine/State.lean ====
section
/-! DEFINITION. The state of the block (spec/10_state.md R20 to R53), of the agents around it (R13,
spec/60_exceptions.md R265 to R273), the reasons a step can stop, and the state after reset (R53). -/

namespace Sys2Proof.Machine

/-- Which context is running (R23). -/
inductive Ctx where
  /-- background: the host issues commands -/
  | bg
  /-- interrupt: the sequencer runs the hardwired service -/
  | int
  deriving DecidableEq, Repr

/-- The sequencer state: the next micro-step the block will take (R23). -/
inductive Seq where
  | idle | iTick | pEnter | pRxchk | pRxloop | pTx | pExit | iRet
  deriving DecidableEq, Repr

/-- ICTL's four fields (R24); its reserved bits hold nothing. -/
structure Ictl where
  gie    : Bool
  tickIe : Bool
  rxIe   : Bool
  txIe   : Bool
  deriving DecidableEq, Repr

/-- STAT's fields (R26). `tmrRun` false is "Uninitialized", true "Running" (R150). -/
structure Stat where
  cmderr : Bool
  cause  : BitVec 3
  tmrRun : Bool
  deriving DecidableEq, Repr

/-- UCTL's fields (R39). -/
structure Uctl where
  uartEn : Bool
  txEn   : Bool
  rxEn   : Bool
  tier   : BitVec 2
  deriving DecidableEq, Repr

/-- One received byte held by the UART peripheral, with its framing-error mark (R267, R269). -/
structure RxEntry where
  byte : Byte
  fe   : Bool
  deriving DecidableEq, Repr

/-- The UART peripheral (R266 to R269): state of the environment, not of the block (R51). -/
structure Uart where
  /-- RXF: the received bytes held, oldest first -/
  rxf     : List RxEntry
  /-- OERR: the overrun latch -/
  oerr    : Bool
  /-- TXH: what the transmitter holds and has not sent; at most one byte in the reference environment -/
  txh     : List Byte
  /-- LINE_TX: the bytes sent so far, oldest first; never read by the block -/
  lineTx  : List Byte
  /-- the tx_ready level of a contract peripheral; the reference environment computes tx_ready instead -/
  txLevel : Bool
  deriving DecidableEq, Repr

/-- A step of some agent (R13, R14): the block's own, or one of the environment's. -/
inductive Move where
  /-- one block step -/
  | block
  /-- the hardware timer's `tick()` (R272) -/
  | tick
  /-- `arrive(byte, fe)` of the reference environment (R269) -/
  | arrive (byte : Byte) (fe : Bool)
  /-- `sent()` (R269) -/
  | sent
  /-- a contract peripheral comes to hold one more received byte (R267 (iv)) -/
  | deliver (byte : Byte) (fe : Bool)
  /-- a contract peripheral raises oerr (R267 (iv)) -/
  | overrun
  /-- a contract peripheral sets its tx_ready level (R266, R268) -/
  | txReady (level : Bool)
  /-- `rst` is asserted (R17, R280) -/
  | rst
  deriving DecidableEq, Repr

/-- A one-step pulse to the UART peripheral (R43). -/
inductive Strobe where
  | pop
  | txWrite (b : Byte)
  | rxReset
  deriving DecidableEq, Repr

/-- The block's memory, that is its two queue buffers (R44, R45, R70), as bytes by register-space address.
Addresses rise strictly; an address that is not listed holds no written byte since reset. -/
abbrev Memory := List Host.Cell

/-- The machine: the block (R20), then the wires and agents around it (R51), which the model holds as data
because `step` has no other argument. -/
structure State where
  /-- the configuration, an argument of every rule (R7); no step changes it -/
  cfg         : Config
  /-- ARG, the operand register (R21) -/
  arg         : Word
  /-- CTX (R23) -/
  ctx         : Ctx
  /-- SEQ (R23) -/
  seq         : Seq
  /-- PROC_OWNER (R23) -/
  procOwner   : Ctx
  /-- SAVED_GIE (R23, R52) -/
  savedGie    : Bool
  /-- ICTL (R24) -/
  ictl        : Ictl
  /-- IFLG.TICK_PENDING (R25) -/
  tickPending : Bool
  /-- STAT (R26) -/
  stat        : Stat
  /-- DIR[p] at index p (R30) -/
  dir         : List Byte
  /-- ANSEL[p] at index p (R31) -/
  ansel       : List Byte
  /-- LAT[p] at index p (R32) -/
  lat         : List Byte
  /-- ROUTE[i] at index i (R34); the entry of a pin without `route` is no register and is never reached -/
  route       : List Byte
  /-- RXSEL (R35) -/
  rxsel       : Byte
  /-- TMRMS (R36) -/
  tmrms       : Word
  /-- TMRUS (R37) -/
  tmrus       : Half
  /-- TPRE (R38) -/
  tpre        : Byte
  /-- UCTL (R39) -/
  uctl        : Uctl
  /-- BRGL (R40) -/
  brgl        : Byte
  /-- BRGH (R40) -/
  brgh        : Byte
  /-- RXQBUF and TXQBUF (R44, R45) -/
  mem         : Memory
  /-- RXQLEN (R44) -/
  rxqlen      : Byte
  /-- TXQLEN (R45) -/
  txqlen      : Byte
  /-- TXQCUR (R45) -/
  txqcur      : Byte
  /-- SERR.ERR (R46) -/
  serr        : Bool
  /-- RCBOUND (R47) -/
  rcbound     : PinId
  /-- TXBOUND (R47) -/
  txbound     : PinId
  /-- the response wire `res` (R22): some r in the state after the step that completed a command, else none -/
  res         : Option Word
  /-- the strobe raised by the latest step (R43) -/
  strobe      : Option Strobe
  /-- the host: the command words it has still to present, in order (R13, R15) -/
  cmds        : List Word
  /-- the order in which the agents move from here on (R14); when it is empty only the block moves -/
  moves       : List Move
  /-- the UART peripheral (R266 to R270) -/
  uart        : Uart
  /-- values the environment has settled on for the coming draws of `any` (R11) -/
  script      : List Byte
  /-- how many draws have been taken from the free value `Config.freeByte` -/
  draws       : Nat
  /-- how many times `rst` has been asserted: selects the free reset contents (R53, U6) -/
  epoch       : Nat
  deriving DecidableEq, Repr

/-- Why the machine stops with no next state. -/
inductive Fault where
  /-- Raised by the block's step at `SEQ = S_IDLE` with `CTX = INT`, for which the spec has no rule: commands
  (R110) and the interrupt (R252) need CTX = BG, and R23 excludes the pair. No run reaches it. Safe: the machine
  stops where the spec gives no step. -/
  | idleInInterruptContext
  deriving DecidableEq, Repr

/-- Why the machine gives a state no behaviour. -/
inductive Refusal where
  /-- Raised by an arm of `exec` whose instruction has no meaning yet; no arm of this model raises it. Safe. -/
  | notModelled (mnemonic : String)
  /-- Raised by `step` where the parameters break a constraint of R8: "is not a configuration. A model refuses
  it" (R9, U9). Safe. -/
  | notAConfiguration
  deriving DecidableEq, Repr

/-- What executing an instruction, or one step, answers. -/
abbrev Result := Host.Outcome State Fault Refusal

/-- The peripheral holding nothing (R269: "After reset of the block"). That a contract peripheral starts so at power-on is
a DESIGN CHOICE (notes/assumptions/5.md), unsafe: R282 says it of the reference environment only. -/
def Uart.empty : Uart where
  rxf := []
  oerr := false
  txh := []
  lineTx := []
  txLevel := false

/-- The state after the e-th reset of a block configured by c (R53, R280), with nothing for the host to present
and no agent scheduled. What R53 leaves unspecified is a free value; an unlisted byte of `mem` likewise.
`uart` is empty: in the reference environment by R282, in a contract one by choice (notes/assumptions/5.md). -/
def State.resetAt (c : Config) (e : Nat) : State where
  cfg := c
  arg := Config.resetArg e
  ctx := .bg
  seq := .idle
  procOwner := .bg
  savedGie := false
  ictl := { gie := false, tickIe := false, rxIe := false, txIe := false }
  tickPending := false
  stat := { cmderr := false, cause := 0, tmrRun := false }
  dir := List.replicate c.nPorts 0xFF
  ansel := List.replicate c.nPorts 0xFF
  lat := (List.range c.nPorts).map (Config.resetLat e)
  route := List.replicate c.nPins 0x00
  rxsel := 0x00
  tmrms := Config.resetTmrms e
  tmrus := Config.resetTmrus e
  tpre := 0x00
  uctl := { uartEn := false, txEn := false, rxEn := false, tier := 0 }
  brgl := 0x00
  brgh := 0x00
  mem := []
  rxqlen := 0
  txqlen := 0
  txqcur := 0
  serr := false
  rcbound := nullPin
  txbound := nullPin
  res := none
  strobe := none
  cmds := []
  moves := []
  uart := .empty
  script := []
  draws := 0
  epoch := e

/-- The state after power-on reset under a given configuration. -/
def State.resetOf (c : Config) : State := .resetAt c 0

/-- The state after reset, under the one configuration the spec writes out (notes/assumptions/1.md). -/
def State.reset : State := .resetOf .ref

end Sys2Proof.Machine
end

