-- ==== Sys2Proof/Machine/Ops.lean ====
section
/-! DEFINITION. The shared operations: bytes of registers, the buffer memory, completing and dropping a command
(R114, R246), taking the interrupt and returning from it (R253, R256), draws of `any` (R11), the strobes to the
UART peripheral (R43, R269, R270). -/

namespace Sys2Proof.Machine

/-! ## Bits and bytes -/

/-- Byte k of a register, byte 0 the least significant (R74). -/
def byteOf {n : Nat} (w : BitVec n) (k : Nat) : Byte := w.extractLsb' (8 * k) 8

/-- The register with its byte k replaced, the other bytes kept (R74, R76). -/
def setByteOf {n : Nat} (w : BitVec n) (k : Nat) (v : Byte) : BitVec n :=
  (w &&& ~~~(BitVec.setWidth n 0xFF#8 <<< (8 * k))) ||| (BitVec.setWidth n v <<< (8 * k))

/-- A one-bit answer in res[0] (R114). -/
def bitWord (b : Bool) : Word := if b then 1 else 0

/-- Whether any bit of the mask is set in a port register's byte (R132). -/
def bitsSet (r mask : Byte) : Bool := r &&& mask != 0

/-- Set (true) or clear (false) the bits of a mask, the other bits kept (R131, R133, R134). -/
def putBits (r mask : Byte) (v : Bool) : Byte := if v then r ||| mask else r &&& ~~~mask

/-- The k-th register of a group (DIR, ANSEL, LAT, ROUTE). -/
def groupRead (l : List Byte) (k : Nat) : Byte := l.getD k 0

/-- The group with its k-th register replaced. -/
def groupWrite (l : List Byte) (k : Nat) (v : Byte) : List Byte := l.set k v

/-! ## The buffer memory -/

/-- The byte written at an address since reset, or none: what an unlisted address reads as. -/
def Memory.read (m : Memory) (a : Nat) : Option Byte :=
  match m with
  | [] => none
  | c :: cs => if c.1 = a then some c.2 else Memory.read cs a

/-- The memory with one byte written, in canonical form. -/
def Memory.write (m : Memory) (a : Nat) (v : Byte) : Memory :=
  match m with
  | [] => [(a, v)]
  | c :: cs =>
    if c.1 < a then c :: Memory.write cs a v
    else if c.1 = a then (a, v) :: cs
    else (a, v) :: c :: cs

/-- The canonical form: addresses strictly rising. (An unlisted address reads as no byte, so no entry can equal
what an unlisted address reads as.) -/
abbrev Memory.wf (m : Memory) : Prop := m.Pairwise (fun x y => x.1 < y.1)

/-- The memory with `n` bytes from address `a` on set to v. -/
def Memory.fill (m : Memory) (a n : Nat) (v : Byte) : Memory :=
  match n with
  | 0 => m
  | k + 1 => Memory.write (Memory.fill m a k v) (a + k) v

/-- The register-space address of RXQBUF[k] (R71). -/
def rxBufAddr (k : Nat) : Nat := 0x100 + k

/-- The register-space address of TXQBUF[k] (R71). -/
def txBufAddr (k : Nat) : Nat := 0x200 + k

/-- The byte at a buffer address: what was last written, or its free content after reset (R53, U6). -/
def bufferRead (s : State) (a : Nat) : Byte := (s.mem.read a).getD (Config.resetBuffer s.epoch a)

/-- RXQBUF[k] (R44). -/
def rxqbuf (s : State) (k : Nat) : Byte := bufferRead s (rxBufAddr k)

/-- TXQBUF[k] (R45). -/
def txqbuf (s : State) (k : Nat) : Byte := bufferRead s (txBufAddr k)

/-- RXQBUF[k] <- v (R44). -/
def setRxqbuf (k : Nat) (v : Byte) (s : State) : State := { s with mem := s.mem.write (rxBufAddr k) v }

/-- TXQBUF[k] <- v (R45). -/
def setTxqbuf (k : Nat) (v : Byte) (s : State) : State := { s with mem := s.mem.write (txBufAddr k) v }

/-- RXQBUF[k] <- 0 for every k below RX_CAP (R175, D20). -/
def clearRxqbuf (s : State) : State := { s with mem := s.mem.fill (rxBufAddr 0) s.cfg.rxCap 0 }

/-! ## Completing and dropping a command -/

/-- The command completes with response r (R22, R114). -/
def complete (r : Word) (s : State) : State := { s with res := some r }

/-- The code of a cause (R247). -/
def causeCode : Cause → BitVec 3
  | .illegalOpcode => 1
  | .reservedField => 2
  | .invalidPin => 3
  | .wrongContext => 4
  | .unmappedAddress => 5

/-- STAT after a dropped command: sticky, with the first cause kept (R246). -/
def Stat.record (t : Stat) (c : Cause) : Stat :=
  { t with cmderr := true, cause := if t.cmderr then t.cause else causeCode c }

/-- `raise CmdError(c)`: the command is dropped (R11, R246). -/
def dropCommand (c : Cause) (s : State) : State := complete 0 { s with stat := s.stat.record c }

/-! ## The interrupt -/

/-- Interrupt entry, one block step (R253). -/
def interruptEntry (s : State) : State :=
  { s with ictl := { s.ictl with gie := false }, ctx := .int, seq := .iTick }

/-- Interrupt return, one block step (R256). -/
def interruptReturn (s : State) : State :=
  { s with ictl := { s.ictl with gie := true }, ctx := .bg, seq := .idle }

/-- ICTL.GIE <- v (R24). -/
def setGie (v : Bool) (s : State) : State := { s with ictl := { s.ictl with gie := v } }

/-! ## Draws of `any` -/

/-- The value of the next draw: what the environment has settled on, or a free value (R11). -/
def nextDraw (s : State) : Byte :=
  match s.script with
  | v :: _ => v
  | [] => Config.freeByte s.draws

/-- The state after that draw, so that the next draw is a fresh one. -/
def drawn (s : State) : State :=
  match s.script with
  | _ :: vs => { s with script := vs }
  | [] => { s with draws := s.draws + 1 }

/-! ## Flags and strobes -/

/-- `flag SER_ERR` (R11, R242). -/
def flagSerErr (s : State) : State := { s with serr := true }

/-- `env.pop()`: the head entry is consumed (R267 (ii), R269). -/
def envPop (s : State) : State :=
  { s with uart := { s.uart with rxf := s.uart.rxf.tail }, strobe := some .pop }

/-- `env.tx_write(b)`: the transmitter takes b. In the reference environment TXH <- b (R269); a contract
peripheral loses no byte (R268 (iii)). -/
def envTxWrite (b : Byte) (s : State) : State :=
  { s with
    uart := { s.uart with
      txh := match s.cfg.uartEnv with
        | .reference => [b]
        | .contract => s.uart.txh ++ [b] }
    strobe := some (.txWrite b) }

/-- `env.rx_reset()`: the overrun is cleared and, with RX_RESET_FLUSH, what the peripheral held is discarded
(R269, R270). -/
def envRxReset (s : State) : State :=
  { s with
    uart := { s.uart with oerr := false, rxf := if s.cfg.rxResetFlush then [] else s.uart.rxf }
    strobe := some .rxReset }

end Sys2Proof.Machine
end

