-- ==== Sys2Proof/Machine/Flags.lean ====
section
/-! DEFINITION. The input signals (R41), the flag and control registers as bytes (R24 to R26, R39, R41, R46), and
the interrupt request (R251). -/

namespace Sys2Proof.Machine

/-! ## Input signals -/

/-- rx_ready: the peripheral holds a received byte (R41, R267, R269). -/
def rxReady (s : State) : Bool := !s.uart.rxf.isEmpty

/-- oerr (R41, R269). -/
def oerr (s : State) : Bool := s.uart.oerr

/-- tx_ready (R41): computed from the enables and TXH in the reference environment (R269), a level of its own in
a contract peripheral (R268). -/
def txReady (s : State) : Bool :=
  match s.cfg.uartEnv with
  | .reference => s.uctl.uartEn && s.uctl.txEn && s.uart.txh.isEmpty
  | .contract => s.uart.txLevel

/-- Whether ferr is unconstrained: a contract peripheral holds no byte for it to describe (R267 (i)). -/
def ferrOpen (s : State) : Bool := !rxReady s && s.cfg.uartEnv == .contract

/-- ferr (R41): the mark of the byte now in rx_data. With no byte held it is 0 in the reference environment
(DEDUCED from vector Y19, notes/assumptions/6.md) and a draw otherwise. -/
def ferr (s : State) : Bool :=
  match s.uart.rxf with
  | e :: _ => e.fe
  | [] =>
    match s.cfg.uartEnv with
    | .reference => false
    | .contract => (nextDraw s).getLsbD 0

/-! ## Registers as bytes -/

/-- ICTL as a byte (R24). -/
def Ictl.toByte (i : Ictl) : Byte :=
  BitVec.ofBool i.gie ++ 0#4 ++ BitVec.ofBool i.tickIe ++ BitVec.ofBool i.rxIe ++ BitVec.ofBool i.txIe

/-- ICTL from a byte written to it: the reserved bits are not stored (R24, R76). -/
def Ictl.ofByte (v : Byte) : Ictl where
  gie := v.getLsbD 7
  tickIe := v.getLsbD 2
  rxIe := v.getLsbD 1
  txIe := v.getLsbD 0

/-- STAT as a byte (R26). -/
def Stat.toByte (t : Stat) : Byte :=
  BitVec.ofBool t.cmderr ++ t.cause ++ 0#3 ++ BitVec.ofBool t.tmrRun

/-- UCTL as a byte (R39). -/
def Uctl.toByte (u : Uctl) : Byte :=
  BitVec.ofBool u.uartEn ++ 0#1 ++ BitVec.ofBool u.txEn ++ BitVec.ofBool u.rxEn ++ 0#2 ++ u.tier

/-- IFLG as a byte (R25, R75). -/
def iflgByte (s : State) : Byte :=
  0#5 ++ BitVec.ofBool s.tickPending ++ BitVec.ofBool (rxReady s) ++ BitVec.ofBool (txReady s)

/-- USTA as a byte (R41, R75). -/
def ustaByte (s : State) : Byte :=
  0#5 ++ BitVec.ofBool (ferr s) ++ BitVec.ofBool (oerr s) ++ 0#1

/-- SERR as a byte (R46). -/
def serrByte (s : State) : Byte := 0#7 ++ BitVec.ofBool s.serr

/-! ## The interrupt request -/

/-- An enabled source is pending (R250, R251). -/
def sourcePending (s : State) : Bool :=
  (s.ictl.tickIe && s.tickPending) || (s.ictl.rxIe && rxReady s) || (s.ictl.txIe && txReady s)

/-- irq (R251). -/
def irq (s : State) : Bool := s.ictl.gie && sourcePending s

end Sys2Proof.Machine
end

