-- ==== Sys2Proof/Machine/Operands.lean ====
section
/-! DEFINITION. The register space as LDB and STB see it (spec/20_memory.md R70 to R79), and the pin-register bits a
pin operand reaches (spec/40_pin.md R130 to R134). -/

namespace Sys2Proof.Machine

/-! ## The register space -/

/-- The byte a register name gives at this step (R75). For PORTIN it is the coming draw (R33, R273). -/
def readReg (s : State) : Reg → Byte
  | .ictl => s.ictl.toByte
  | .iflg => iflgByte s
  | .uctl => s.uctl.toByte
  | .usta => ustaByte s
  | .brgl => s.brgl
  | .brgh => s.brgh
  | .rxsel => s.rxsel
  | .tpre => s.tpre
  | .stat => s.stat.toByte
  | .serr => serrByte s
  | .rxqlen => s.rxqlen
  | .txqlen => s.txqlen
  | .txqcur => s.txqcur
  | .tmrms k => byteOf s.tmrms k
  | .tmrus k => byteOf s.tmrus k
  | .rcbound => s.rcbound
  | .txbound => s.txbound
  | .arg k => byteOf s.arg k
  | .cfgfreq k => byteOf (BitVec.ofNat 32 s.cfg.fClk) k
  | .cfgdev k => groupRead s.cfg.deviceName k
  | .dir p => groupRead s.dir p
  | .portin _ => nextDraw s
  | .ansel p => groupRead s.ansel p
  | .lat p => groupRead s.lat p
  | .route i => groupRead s.route i
  | .rxqbuf k => rxqbuf s k
  | .txqbuf k => txqbuf s k

/-- Whether reading a register takes a draw: PORTIN always (R273), USTA while ferr is unconstrained. -/
def readDraws (s : State) : Reg → Bool
  | .portin _ => true
  | .usta => ferrOpen s
  | _ => false

/-- The state after a register is read: no read changes the block or the environment (R75); a draw, if the read
took one, is used up. -/
def afterRead (s : State) (r : Reg) : State := if readDraws s r then drawn s else s

/-- The effect of writing byte v to a register (R76): the registers marked W in R71 take it, every other accepts
and ignores it. -/
def writeReg (s : State) (r : Reg) (v : Byte) : State :=
  match r with
  | .ictl => { s with ictl := .ofByte v }
  | .serr => { s with serr := v.getLsbD 0 }
  | .rxqlen => { s with rxqlen := v }
  | .txqlen => { s with txqlen := v }
  | .txqcur => { s with txqcur := v }
  | .tmrms k => { s with tmrms := setByteOf s.tmrms k v }
  | .tmrus k => { s with tmrus := setByteOf s.tmrus k v }
  | .arg k => { s with arg := setByteOf s.arg k v }
  | .rxqbuf k => setRxqbuf k v s
  | .txqbuf k => setTxqbuf k v s
  | .iflg | .uctl | .usta | .brgl | .brgh | .rxsel | .tpre | .stat | .rcbound | .txbound => s
  | .cfgfreq _ | .cfgdev _ | .dir _ | .portin _ | .ansel _ | .lat _ | .route _ => s

/-- The byte at an address of the register space, or none where it is unmapped (R72, R75). -/
def byteAt (s : State) (a : Addr) : Option Byte := (regAt s.cfg a).map (readReg s)

/-! ## Pin bits -/

/-- The direction bit of a pin, if it has one: true makes it an output (R131). -/
def pinDirection (d : PinDescriptor) (out : Bool) (s : State) : State :=
  match d.dir with
  | some k => { s with dir := groupWrite s.dir k (putBits (groupRead s.dir k) d.mask (!out)) }
  | none => s

/-- The latch bit of a pin, if it has one (R133). -/
def pinLatch (d : PinDescriptor) (level : Bool) (s : State) : State :=
  match d.lat with
  | some k => { s with lat := groupWrite s.lat k (putBits (groupRead s.lat k) d.mask level) }
  | none => s

/-- The analog-select bit of a pin, if it has one: true makes it analog (R134). -/
def pinAnalog (d : PinDescriptor) (ana : Bool) (s : State) : State :=
  match d.ansel with
  | some k => { s with ansel := groupWrite s.ansel k (putBits (groupRead s.ansel k) d.mask ana) }
  | none => s

/-- The pin is "configured as output (direction bit clear)"; one with no direction register never is (R132). -/
def isOutput (s : State) (d : PinDescriptor) : Bool :=
  match d.dir with
  | some k => !bitsSet (groupRead s.dir k) d.mask
  | none => false

/-- What PINRD reads for a pin (R132): nothing ("returns false"), its latch bit, or its port bit. -/
inductive PinSource where
  | nothing
  | latch (k : Nat)
  | port
  deriving DecidableEq, Repr

/-- Which of the three applies (R132). -/
def pinSource (s : State) (d : PinDescriptor) : PinSource :=
  match d.port with
  | none => .nothing
  | some _ =>
    match isOutput s d, d.lat with
    | true, some k => .latch k
    | _, _ => .port

/-- The level PINRD returns for a pin (R132); the port bit is that of the coming draw (R33, R273). -/
def pinLevel (s : State) (d : PinDescriptor) : Bool :=
  match pinSource s d with
  | .nothing => false
  | .latch k => bitsSet (groupRead s.lat k) d.mask
  | .port => bitsSet (nextDraw s) d.mask

/-- The state after the pin is read: a draw is used up if the port was read, nothing else changes (R132). -/
def afterPinRead (s : State) (d : PinDescriptor) : State :=
  match pinSource s d with
  | .port => drawn s
  | _ => s

end Sys2Proof.Machine
end

