-- ==== Sys2Proof/Machine/Pin.lean ====
section
/-! DEFINITION. The pin unit's commands (spec/40_pin.md R130 to R137). -/

namespace Sys2Proof.Machine

/-- PINDIR pin, flag (R130, R131). -/
def execPindir (pin : PinId) (out : Bool) (s : State) : Result :=
  .next <| match pinOperand s.cfg pin with
  | .invalid => dropCommand .invalidPin s
  | .null => complete 0 s
  | .pin _ d => complete 0 (pinDirection d out s)

/-- PINRD pin (R130, R132). -/
def execPinrd (pin : PinId) (s : State) : Result :=
  .next <| match pinOperand s.cfg pin with
  | .invalid => dropCommand .invalidPin s
  | .null => complete 0 s
  | .pin _ d => complete (bitWord (pinLevel s d)) (afterPinRead s d)

/-- PINWR pin, flag (R130, R133). -/
def execPinwr (pin : PinId) (level : Bool) (s : State) : Result :=
  .next <| match pinOperand s.cfg pin with
  | .invalid => dropCommand .invalidPin s
  | .null => complete 0 s
  | .pin _ d => complete 0 (pinLatch d level s)

/-- PINANA pin, flag (R130, R134). -/
def execPinana (pin : PinId) (ana : Bool) (s : State) : Result :=
  .next <| match pinOperand s.cfg pin with
  | .invalid => dropCommand .invalidPin s
  | .null => complete 0 s
  | .pin _ d => complete 0 (pinAnalog d ana s)

end Sys2Proof.Machine
end

