-- ==== Sys2Proof/Machine/Baud.lean ====
section
/-! DEFINITION. The baud-rate generator: the divisor derivation, the achieved rate and the baud clock
(spec/42_serial_init_brg.md R165 to R170, R174, R180). -/

namespace Sys2Proof.Machine

/-- The divisor a tier of a given scale computes: truncating divisions, then a subtraction on integers, so -1
where the quotient is 0 (R167, R169). -/
def tierDivisor (fClk baud scale : Nat) : Int := ((fClk / baud / scale : Nat) : Int) - 1

/-- The tier accepts a divisor in its closed band (R166, R167). -/
def tierAccepts (t : Tier) (d : Int) : Bool := decide ((t.min : Int) ≤ d) && decide (d ≤ (t.max : Int))

/-- The first tier of the list, the list's head having index i, that accepts its own divisor (R167). -/
def firstTier (fClk baud : Nat) (i : Nat) : List Tier → Option (Nat × Nat)
  | [] => none
  | t :: ts =>
    if tierAccepts t (tierDivisor fClk baud t.scale) then some (i, (tierDivisor fClk baud t.scale).toNat)
    else firstTier fClk baud (i + 1) ts

/-- `brg_select(B)`: the accepted pair (tier, divisor), or none for FAIL; a rate of 0 fails undivided (R167,
R170). -/
def brgSelect (c : Config) (baud : Nat) : Option (Nat × Nat) :=
  if baud = 0 then none else firstTier c.fClk baud 0 c.tiers

/-- TIER_SCALE[i] (R166). -/
def tierScale (c : Config) (i : Nat) : Nat := (c.tiers[i]?.map (·.scale)).getD 0

/-- `achieved(i, d)` (R174). -/
def achieved (c : Config) (i d : Nat) : Nat := c.fClk / ((d + 1) * tierScale c i)

/-- BRG_DIV = {BRGH, BRGL} (R40). -/
def brgDiv (s : State) : BitVec 16 := s.brgh ++ s.brgl

/-- What F_CLK is divided by to make the baud clock (R165). -/
def clockDivider (s : State) : Nat := ((brgDiv s).toNat + 1) * tierScale s.cfg s.uctl.tier.toNat

/-- The symbol rate of the peripheral in symbols per second while UART_EN is 1, a rational (R180). -/
def symbolRate (s : State) : Option Rat :=
  if s.uctl.uartEn then some ((s.cfg.fClk : Rat) / (clockDivider s : Rat)) else none

end Sys2Proof.Machine
end

