-- ==== Sys2Proof/Machine/Env.lean ====
section
/-! DEFINITION. The environment's steps (spec/60_exceptions.md R265 to R273) and the reset input (R280), and the
block's level outputs (R43, R137). -/

namespace Sys2Proof.Machine

/-- `arrive(byte, fe)` (R269): available while UART_EN and RX_EN are 1. -/
def envArrive (byte : Byte) (fe : Bool) (s : State) : State :=
  if s.cfg.uartEnv = .reference ∧ s.uctl.uartEn ∧ s.uctl.rxEn then
    if s.uart.oerr then s
    else if s.uart.rxf.length < s.cfg.rxfDepth then
      { s with uart := { s.uart with rxf := s.uart.rxf ++ [⟨byte, fe⟩] } }
    else { s with uart := { s.uart with oerr := true } }
  else s

/-- `sent()` (R269): available while the transmitter holds a byte; the oldest goes out on the line, in the order
written (R268 (iv)). -/
def envSent (s : State) : State :=
  match s.uart.txh with
  | b :: rest => { s with uart := { s.uart with txh := rest, lineTx := s.uart.lineTx ++ [b] } }
  | [] => s

/-- A contract peripheral comes to hold one more byte (R267). -/
def envDeliver (byte : Byte) (fe : Bool) (s : State) : State :=
  if s.cfg.uartEnv = .contract then { s with uart := { s.uart with rxf := s.uart.rxf ++ [⟨byte, fe⟩] } } else s

/-- A contract peripheral raises oerr, which stays until the receiver reset (R267 (iii), (iv)). -/
def envOverrun (s : State) : State :=
  if s.cfg.uartEnv = .contract then { s with uart := { s.uart with oerr := true } } else s

/-- A contract peripheral changes its tx_ready level (R268). -/
def envTxLevel (level : Bool) (s : State) : State :=
  if s.cfg.uartEnv = .contract then { s with uart := { s.uart with txLevel := level } } else s

/-- `tick()`: TICK_PENDING <- 1, merged if already 1 (R272). -/
def envTick (s : State) : State := { s with tickPending := true }

/-- `rst` (R280): the block's state becomes that of R53, whatever it was doing; the reference environment is
emptied with it (R269), a contract peripheral keeps what it holds (R267). The host's words, the schedule and the
environment's settled draws are not the block's and stay; the unspecified contents are drawn anew. -/
def blockReset (s : State) : State :=
  { State.resetAt s.cfg (s.epoch + 1) with
    cmds := s.cmds
    moves := s.moves
    uart := match s.cfg.uartEnv with
      | .reference => .empty
      | .contract => s.uart
    script := s.script
    draws := s.draws }

/-- One step of an agent other than the block. A step that is not available leaves the state as it is: the
schedule then stands for the run without it. -/
def envMove (m : Move) (s : State) : State :=
  match m with
  | .block => s
  | .tick => envTick s
  | .arrive b fe => envArrive b fe s
  | .sent => envSent s
  | .deliver b fe => envDeliver b fe s
  | .overrun => envOverrun s
  | .txReady v => envTxLevel v s
  | .rst => blockReset s

/-- The head of the schedule is used up, and the one-step wires fall (R22, R43). -/
def beginStep (s : State) : State := { s with moves := s.moves.tail, res := none, strobe := none }

/-! ## Level outputs -/

/-- The level outputs of the block (R30 to R43). `route` gives a pin without a routing register none. -/
structure Outputs where
  dirO    : List Byte
  anselO  : List Byte
  latO    : List Byte
  routeO  : List (Option Byte)
  rxselO  : Byte
  tpreO   : Byte
  uartEnO : Bool
  txEnO   : Bool
  rxEnO   : Bool
  tierO   : BitVec 2
  brgDivO : BitVec 16
  deriving DecidableEq, Repr

/-- What the block drives in a state: the registers themselves, so they change in the same block step (R137). -/
def outputs (s : State) : Outputs where
  dirO := s.dir
  anselO := s.ansel
  latO := s.lat
  routeO := (List.range s.cfg.nPins).map
    (fun i => if s.cfg.hasRoute i then some (groupRead s.route i) else none)
  rxselO := s.rxsel
  tpreO := s.tpre
  uartEnO := s.uctl.uartEn
  txEnO := s.uctl.txEn
  rxEnO := s.uctl.rxEn
  tierO := s.uctl.tier
  brgDivO := s.brgh ++ s.brgl

/-- The level the latch of pin i puts on its line through the pad, or none: the pad drives from the latch only while
the pin's direction bit is 0 (R32, R133), and not where the routing register gives the line to the UART's
transmitter (R34, R176). -/
def padDrive (c : Config) (o : Outputs) (i : Nat) (d : PinDescriptor) : Option Bool :=
  if o.routeO[i]? = some (some c.txFuncCode) then none
  else
    match d.dir, d.lat with
    | some k, some j =>
      if bitsSet (groupRead o.dirO k) d.mask then none else some (bitsSet (groupRead o.latO j) d.mask)
    | _, _ => none

end Sys2Proof.Machine
end

