-- ==== Sys2Proof/Machine/Serial.lean ====
section
/-! DEFINITION. SERINIT (spec/42_serial_init_brg.md R171 to R182) and SERPROC with its micro-steps
(spec/43_serial_process.md R190 to R205). -/

namespace Sys2Proof.Machine

/-! ## SERINIT -/

/-- Sub-steps done one after another, inside one block step. -/
def inOrder (fs : List (State → State)) (s : State) : State :=
  match fs with
  | [] => s
  | f :: rest => inOrder rest (f s)

/-- The level outputs after each of those sub-steps, in order: what the peripheral and the pads see pass within the
block step (R177). -/
def levelsInOrder (fs : List (State → State)) (s : State) : List Outputs :=
  match fs with
  | [] => []
  | f :: rest => outputs (f s) :: levelsInOrder rest (f s)

/-- The sub-steps of `bind_rx(rc)`, one for each line of R175 and in its order: analog-select before direction before
routing before enable (R177). -/
def bindRxSteps (c : Config) (rc : PinId) : List (State → State) :=
  match pinOperand c rc with
  | .pin _ d =>
    [ fun s => { s with rcbound := rc },
      fun s => { s with rxqlen := 0 },
      clearRxqbuf,
      pinAnalog d false,
      pinDirection d false,
      fun s => { s with rxsel := d.af },
      fun s => { s with uctl := { s.uctl with rxEn := true } } ]
  | _ => [fun s => { s with rcbound := rc }]

/-- The sub-steps of `bind_tx(tx)`, one for each line of R176 and in its order (R177). -/
def bindTxSteps (c : Config) (tx : PinId) : List (State → State) :=
  match pinOperand c tx with
  | .pin i d =>
    if d.route then
      [ fun s => { s with txbound := tx },
        pinAnalog d false,
        pinDirection d true,
        fun s => { s with route := groupWrite s.route i c.txFuncCode },
        fun s => { s with uctl := { s.uctl with txEn := true } } ]
    else [fun s => { s with txbound := nullPin }]
  | _ => [fun s => { s with txbound := nullPin }]

/-- `bind_rx(rc)` (R175). -/
def bindRx (rc : PinId) (s : State) : State := inOrder (bindRxSteps s.cfg rc) s

/-- `bind_tx(tx)` (R176). -/
def bindTx (tx : PinId) (s : State) : State := inOrder (bindTxSteps s.cfg tx) s

/-- UCTL.TIER <- i (R171). -/
def programTier (i : Nat) (s : State) : State := { s with uctl := { s.uctl with tier := BitVec.ofNat 2 i } }

/-- BRGL <- d[7:0]; BRGH <- d[15:8] (R171). -/
def programDivisor (d : Nat) (s : State) : State :=
  { s with brgl := BitVec.ofNat 8 d, brgh := BitVec.ofNat 8 (d / 256) }

/-- "programs the divisor into the baud-rate-generator registers" (R171). -/
def programBrg (i d : Nat) (s : State) : State := programDivisor d (programTier i s)

/-- "Clears the error flag" (R171). -/
def clearSerErr (s : State) : State := { s with serr := false }

/-- "and enables the peripheral as the final step" (R171). -/
def enableUart (s : State) : State := { s with uctl := { s.uctl with uartEn := true } }

/-- Everything a successful SERINIT writes, in the order of R171 and R177. -/
def serinitSteps (c : Config) (i d : Nat) (rc tx : PinId) : List (State → State) :=
  [programTier i, programDivisor d] ++ bindRxSteps c rc ++ bindTxSteps c tx ++ [clearSerErr, enableUart]

/-- What a successful derivation makes of the state (R171), but for the response. -/
def serialSetup (i d : Nat) (rc tx : PinId) (s : State) : State := inOrder (serinitSteps s.cfg i d rc tx) s

/-- The level outputs a successful SERINIT goes through within its block step, the last being those it leaves (R177). -/
def serinitLevels (i d : Nat) (rc tx : PinId) (s : State) : List Outputs :=
  levelsInOrder (serinitSteps s.cfg i d rc tx) s

/-- SERINIT rcpin, txpin (R171); a rate no tier accepts writes nothing (R172). -/
def execSerinit (rc tx : PinId) (s : State) : Result :=
  .next <| if pinOk s.cfg rc && pinOk s.cfg tx then
    match brgSelect s.cfg s.arg.toNat with
    | none => complete 0 s
    | some (i, d) => complete (BitVec.ofNat 32 (achieved s.cfg i d)) (serialSetup i d rc tx s)
  else dropCommand .invalidPin s

/-! ## SERPROC -/

/-- SERPROC on the command port: the command is accepted and its micro-steps follow (R23, R190, R192). -/
def execSerproc (s : State) : Result := .next { s with procOwner := .bg, seq := .pEnter }

/-- Micro-step S_P_ENTER (R192). -/
def microEnter (s : State) : State :=
  setGie false { s with savedGie := s.ictl.gie, seq := .pRxchk }

/-- Micro-step S_P_RXCHK (R193). -/
def microRxchk (s : State) : State :=
  if s.rcbound = nullPin then { s with seq := .pTx }
  else if oerr s then
    flagSerErr (envRxReset { s with uctl := { s.uctl with rxEn := true }, seq := .pTx })
  else { s with seq := .pRxloop }

/-- What SERPROC does with one byte taken from the peripheral (R194): discard it on a framing error, append it
while there is room, else drop it. -/
def takeByte (e : RxEntry) (s : State) : State :=
  if e.fe then flagSerErr s
  else if s.rxqlen.toNat < s.cfg.rxCap then
    setRxqbuf s.rxqlen.toNat e.byte { s with rxqlen := s.rxqlen + 1 }
  else flagSerErr s

/-- Micro-step S_P_RXLOOP: one iteration of the receive loop (R194). -/
def microRxloop (s : State) : State :=
  match s.uart.rxf with
  | [] => { s with seq := .pTx }
  | e :: _ => takeByte e (envPop s)

/-- The byte the transmit phase sends: TXQBUF[TXQCUR], or a draw beyond the buffer (R195, R203). -/
def txByte (s : State) : Byte :=
  if s.txqcur.toNat < s.cfg.txCap then txqbuf s s.txqcur.toNat else nextDraw s

/-- The transmit phase sends a byte (R195). -/
def txSends (s : State) : Bool :=
  s.txbound != nullPin && decide (s.txqcur.toNat < s.txqlen.toNat) && txReady s

/-- The transmit phase (R195), without its move of SEQ. -/
def transmit (s : State) : State :=
  if txSends s then
    let s' := if s.txqcur.toNat < s.cfg.txCap then s else drawn s
    envTxWrite (txByte s) { s' with txqcur := s.txqcur + 1 }
  else s

/-- Micro-step S_P_TX (R195). -/
def microTx (s : State) : State := { transmit s with seq := .pExit }

/-- Micro-step S_P_EXIT (R196): a host SERPROC completes, one in a service goes on to the return. -/
def microExit (s : State) : State :=
  let s := setGie s.savedGie s
  match s.procOwner with
  | .int => { s with seq := .iRet }
  | .bg => complete 0 { s with seq := .idle }

/-! ## The big-step reading -/

/-- What the receive loop makes of the entries the peripheral holds, in order (R197 (1)). -/
def takeAll (es : List RxEntry) (s : State) : State :=
  match es with
  | [] => s
  | e :: rest => takeAll rest (takeByte e s)

/-- The receive phase of one SERPROC with no environment step inside it (R197 (1)). -/
def receivePhase (s : State) : State :=
  if s.rcbound = nullPin then s
  else if oerr s then flagSerErr (envRxReset { s with uctl := { s.uctl with rxEn := true } })
  else takeAll s.uart.rxf { s with uart := { s.uart with rxf := [] } }

/-- SERPROC as a function (R197): the state a host SERPROC leaves, started from s, if the environment takes no
step inside it. The wires are those of its last micro-step. -/
def serprocBig (s : State) : State :=
  { transmit (receivePhase s) with
    savedGie := s.ictl.gie, procOwner := .bg, seq := .idle, res := some 0, strobe := none }

end Sys2Proof.Machine
end

