-- ==== Sys2Proof/Machine/System.lean ====
section
/-! DEFINITION. The system commands (spec/44_system.md R215 to R226). -/

namespace Sys2Proof.Machine

/-- NOP (R215). -/
def execNop (s : State) : Result := .next (complete 0 s)

/-- CRITENT: the prior GIE in res[0], GIE cleared (R216). -/
def execCritent (s : State) : Result := .next (complete (bitWord s.ictl.gie) (setGie false s))

/-- CRITEXIT flag (R217). -/
def execCritexit (gie : Bool) (s : State) : Result := .next (complete 0 (setGie gie s))

/-- LDB addr (R224). -/
def execLdb (addr : Addr) (s : State) : Result :=
  .next <| match regAt s.cfg addr with
  | none => dropCommand .unmappedAddress s
  | some r => complete ((readReg s r).setWidth 32) (afterRead s r)

/-- STB addr, imm8 (R225). -/
def execStb (addr : Addr) (data : Byte) (s : State) : Result :=
  .next <| match regAt s.cfg addr with
  | none => dropCommand .unmappedAddress s
  | some r => complete 0 (writeReg s r data)

end Sys2Proof.Machine
end

