-- ==== Sys2Proof/Machine/Timer.lean ====
section
/-! DEFINITION. The timer unit's commands (spec/41_timer.md R150 to R159). -/

namespace Sys2Proof.Machine

/-- TMRINIT (R151). -/
def execTmrinit (s : State) : Result :=
  .next (complete 0 { s with
    tpre := s.cfg.prescale
    ictl := { s.ictl with tickIe := true }
    tmrms := 0
    tmrus := 0
    stat := { s.stat with tmrRun := true } })

/-- The microseconds accumulated by one tick (R152), an unbounded integer. -/
def tickAcc (s : State) : Nat := s.tmrus.toNat + s.cfg.tickUs

/-- The body of TMRTICK (R152), run whatever TICK_PENDING is (R158). -/
def timerTick (s : State) : State :=
  { s with
    tmrms := BitVec.ofNat 32 (s.tmrms.toNat + tickAcc s / 1000)
    tmrus := BitVec.ofNat 16 (tickAcc s % 1000)
    tickPending := false }

/-- TMRTICK: the body in interrupt context (R152, R158); dropped on the command port, which is always background
context (R153). -/
def execTmrtick (s : State) : Result :=
  .next <| match s.ctx with
  | .int => timerTick s
  | .bg => dropCommand .wrongContext s

/-- The tick stage of an interrupt service, one block step (R254). -/
def tickStage (s : State) : State :=
  { (if s.tickPending then timerTick s else s) with procOwner := .int, seq := .pEnter }

end Sys2Proof.Machine
end

