-- ==== Sys2Proof/Machine/Dispatch.lean ====
section
/-! DEFINITION. The meaning of each instruction, one arm a constructor. -/

namespace Sys2Proof.Machine

def exec (i : Instr) (s : State) : Host.Outcome State Fault Refusal :=
  match i with
  | .nop => Sys2Proof.Machine.execNop s
  | .pindir pin out => Sys2Proof.Machine.execPindir pin out s
  | .pinrd pin => Sys2Proof.Machine.execPinrd pin s
  | .pinwr pin level => Sys2Proof.Machine.execPinwr pin level s
  | .pinana pin ana => Sys2Proof.Machine.execPinana pin ana s
  | .tmrinit => Sys2Proof.Machine.execTmrinit s
  | .tmrtick => Sys2Proof.Machine.execTmrtick s
  | .serinit rc tx => Sys2Proof.Machine.execSerinit rc tx s
  | .serproc => Sys2Proof.Machine.execSerproc s
  | .critent => Sys2Proof.Machine.execCritent s
  | .critexit gie => Sys2Proof.Machine.execCritexit gie s
  | .ldb addr => Sys2Proof.Machine.execLdb addr s
  | .stb addr data => Sys2Proof.Machine.execStb addr data s

end Sys2Proof.Machine
end

