-- ==== Sys2Proof/Machine/Sequencer.lean ====
section
/-! DEFINITION. One block step (spec/00_scope.md R14): a command at a boundary, interrupt entry, or the next
micro-step of the sequencer (spec/10_state.md R23, spec/60_exceptions.md R252 to R256). -/

namespace Sys2Proof.Machine

/-- The host presents its next command word (R15, R110): an illegal word is dropped (R109), any other executes.
With no word left the host presents none, and the block stays as it is. -/
def acceptCommand (s : State) : Result :=
  match s.cmds with
  | [] => .next s
  | w :: rest =>
    match decode w with
    | .error c => .next (dropCommand c { s with cmds := rest })
    | .ok i => exec i { s with cmds := rest }

/-- A command boundary: the interrupt is taken if it is requested, and no command is accepted until it is not
(R110, R252). -/
def boundary (s : State) : Result :=
  if irq s then .next (interruptEntry s) else acceptCommand s

/-- One block step, by the sequencer state (R14, R23). -/
def blockStep (s : State) : Result :=
  match s.seq with
  | .idle =>
    match s.ctx with
    | .bg => boundary s
    | .int => .fault .idleInInterruptContext
  | .iTick => .next (tickStage s)
  | .pEnter => .next (microEnter s)
  | .pRxchk => .next (microRxchk s)
  | .pRxloop => .next (microRxloop s)
  | .pTx => .next (microTx s)
  | .pExit => .next (microExit s)
  | .iRet => .next (interruptReturn s)

/-- One step of the agent whose turn it is (R13, R14): the block's when nothing is scheduled. -/
def agentStep (s : State) : Result :=
  match s.moves with
  | [] | .block :: _ => blockStep (beginStep s)
  | m :: _ => .next (envMove m (beginStep s))

/-- The word an opcode-table row's bits make (R100). -/
def fetchWord (nbits w : Nat) : Word := BitVec.ofNat 32 (w % 2 ^ nbits)

/-- The host's list with that word as the next it presents, and the block's turn next. -/
def presentNext (w : Word) (s : State) : State := { s with cmds := w :: s.cmds, moves := .block :: s.moves }

end Sys2Proof.Machine
end

