-- ==== Sys2Proof/Machine/Step.lean ====
section
/-! DEFINITION. One step of the machine, and the placing of a word where the next step takes it. -/

namespace Sys2Proof.Machine

/-- One step (R13, R14). Parameters that are not a configuration have no behaviour (R9). -/
def step (s : State) : Host.Outcome State Fault Refusal :=
  if s.cfg.ok then agentStep s else .refused .notAConfiguration

/-- `s` with the given word as the one the host presents next, at the block's next step: the block fetches
nothing, the host holds the program (R23, notes/assumptions/3.md). -/
def State.withFetchWord (s : State) (nbits w : Nat) : State := presentNext (fetchWord nbits w) s

end Sys2Proof.Machine
end

