-- ==== Sys2Proof/Safety.lean ====
section
/-! DEFINITION. The terms claims are stated in: whose turn it is, when a command is accepted and when a run is over,
the invariants the spec states, and the service as a function. -/

namespace Sys2Proof.Machine

/-! ## Turns and boundaries -/

/-- The block moves next: nothing is scheduled, or the block is (R14). -/
def blockMoves (s : State) : Bool := s.moves.head?.all (· == .block)

/-- A command boundary (R252). -/
def atBoundary (s : State) : Bool := s.seq == .idle && s.ctx == .bg

/-- The command port accepts a word (R110). -/
def portOpen (s : State) : Bool := atBoundary s && !irq s

/-- At the next step the block accepts the word w, with `rest` still to be presented (R15, R110). -/
def accepts (s : State) (w : Word) (rest : List Word) : Prop :=
  s.cfg.ok = true ∧ blockMoves s = true ∧ portOpen s = true ∧ s.cmds = w :: rest

/-- At the next step the block accepts a word that decodes to i. -/
def runsNext (s : State) (i : Instr) : Prop :=
  ∃ w rest, accepts s w rest ∧ decode w = .ok i

/-- The state an accepted command starts from: its word is taken from the host's list, the schedule's head is
used up, the one-step wires have fallen. -/
def accepted (s : State) (rest : List Word) : State := { beginStep s with cmds := rest }

/-- The run is over (R15): every command has completed, the sequencer is idle in background context and the
interrupt request is false. -/
def runOver (s : State) : Bool := s.cmds.isEmpty && portOpen s

/-- The identifier names a pin, with that descriptor (R27, R130). -/
def namesPin (s : State) (p : PinId) (d : PinDescriptor) : Prop :=
  p ≠ nullPin ∧ s.cfg.pinMap[p.toNat]? = some d

/-- The identifier names no pin and is not null (R27, R109 check 3). -/
def badPin (c : Config) (p : PinId) : Prop := p ≠ nullPin ∧ c.nPins ≤ p.toNat

/-- The identifier is a pin that can transmit: one with an output-routing register (R176). -/
def routedPin (c : Config) (p : PinId) : Prop := p ≠ nullPin ∧ c.hasRoute p.toNat = true

/-- Every byte of the register space reads as before, but for the registers named and for input signals that are
unconstrained at each read (R75, R81). -/
def keepsBytesBut (exempt : Reg → Bool) (s t : State) : Prop :=
  ∀ a r, regAt s.cfg a = some r → readDraws s r = false → exempt r = false → byteAt t a = byteAt s a

/-- The next k moves are the block's, and then come those of `rest`. -/
def blockTurns (s : State) (k : Nat) (rest : List Move) : Prop := s.moves = List.replicate k .block ++ rest

/-! ## Invariants -/

/-- "`0 <= receive length <= capacity`; `0 <= send cursor <= send length <= capacity`" (R49). -/
def SerialInv (s : State) : Prop :=
  s.rxqlen.toNat ≤ s.cfg.rxCap ∧ s.txqcur.toNat ≤ s.txqlen.toNat ∧ s.txqlen.toNat ≤ s.cfg.txCap

/-- `0 <= TMRUS < 1000` (R37, R50). -/
def TimerInv (s : State) : Prop := s.tmrus.toNat < 1000

/-- The control state is one R23 allows: CTX = INT exactly from interrupt entry to the return, PROC_OWNER names
the context of the SERPROC in progress, GIE is 0 through a service and through a SERPROC (R191, R253, R257), and a
SERPROC in a service has saved 0 (R192). -/
def ControlInv (s : State) : Prop :=
  match s.seq with
  | .idle => s.ctx = .bg
  | .iTick | .iRet => s.ctx = .int ∧ s.ictl.gie = false
  | .pEnter => s.procOwner = s.ctx ∧ (s.ctx = .int → s.ictl.gie = false)
  | .pRxchk | .pRxloop | .pTx | .pExit =>
    s.procOwner = s.ctx ∧ s.ictl.gie = false ∧ (s.ctx = .int → s.savedGie = false)

/-- The registers are those the configuration gives the block (R20, R30 to R34), and the memory is in canonical
form and holds bytes of the two queue buffers only (R70, R85). -/
def ShapeInv (s : State) : Prop :=
  s.dir.length = s.cfg.nPorts ∧ s.ansel.length = s.cfg.nPorts ∧ s.lat.length = s.cfg.nPorts
    ∧ s.route.length = s.cfg.nPins
    ∧ Memory.wf s.mem
    ∧ ∀ c ∈ s.mem, (0x100 ≤ c.1 ∧ c.1 < 0x100 + s.cfg.rxCap) ∨ (0x200 ≤ c.1 ∧ c.1 < 0x200 + s.cfg.txCap)

/-- TIER is the index of a tier (R39); STAT.CAUSE is 0 exactly while CMDERR is 0, and never 6 or 7 (R26, R247);
RCBOUND is null or a pin, TXBOUND null or a pin with an output-routing register (R47, R176). -/
def RegisterInv (s : State) : Prop :=
  s.uctl.tier.toNat < s.cfg.tiers.length
    ∧ (s.stat.cmderr = false ↔ s.stat.cause = 0) ∧ s.stat.cause.toNat ≤ 5
    ∧ (s.rcbound = nullPin ∨ s.rcbound.toNat < s.cfg.nPins)
    ∧ (s.txbound = nullPin ∨ s.cfg.hasRoute s.txbound.toNat = true)

/-- The reference UART environment holds at most RXF_DEPTH received bytes and one byte to send (R269). -/
def UartInv (s : State) : Prop :=
  s.cfg.uartEnv = .reference → s.uart.rxf.length ≤ s.cfg.rxfDepth ∧ s.uart.txh.length ≤ 1

/-- The invariant of the machine: all of the above that no host command can break. -/
def MachineInv (s : State) : Prop :=
  s.cfg.ok = true ∧ ControlInv s ∧ ShapeInv s ∧ RegisterInv s ∧ UartInv s

/-- At the next step the host stores to one of the three registers whose invariant the block does not check (R49,
R202). -/
def storesQueueRegister (s : State) : Prop :=
  ∃ a v, runsNext s (.stb a v) ∧
    (regAt s.cfg a = some .rxqlen ∨ regAt s.cfg a = some .txqlen ∨ regAt s.cfg a = some .txqcur)

/-! ## SERPROC and the service as functions -/

/-- How many iterations of the receive loop a SERPROC makes if no byte arrives meanwhile: one for each byte held
and one that finds none (R193, R194). -/
def receiveLoops (s : State) : Nat :=
  if s.rcbound = nullPin || oerr s then 0 else s.uart.rxf.length + 1

/-- The steps of a host SERPROC: acceptance, S_P_ENTER, S_P_RXCHK, the loop, S_P_TX, S_P_EXIT (R23). -/
def serprocSteps (s : State) : Nat := 5 + receiveLoops s

/-- The steps of an interrupt service: entry, tick stage, the four micro-steps and the loop, return (R23). -/
def serviceSteps (s : State) : Nat := 7 + receiveLoops s

/-- An interrupt service as a function (R253 to R256), if the environment takes no step inside it: the tick if one
is pending, then SERPROC's two phases, and the background context as it was. -/
def serviceBig (s : State) : State :=
  { transmit (receivePhase (if s.tickPending then timerTick s else s)) with
    savedGie := false, procOwner := .int, res := none, strobe := none }

/-- n ticks, each the body of TMRTICK (R152, R154). -/
def ticks (n : Nat) (s : State) : State :=
  match n with
  | 0 => s
  | k + 1 => timerTick (ticks k s)

/-- The unsent bytes TXQBUF[TXQCUR..TXQLEN-1], oldest first (R45). -/
def unsent (s : State) : List Byte :=
  (List.range (s.txqlen.toNat - s.txqcur.toNat)).map (fun k => txqbuf s (s.txqcur.toNat + k))

/-- The received bytes not yet taken, RXQBUF[0..RXQLEN-1], oldest first (R44). -/
def received (s : State) : List Byte := (List.range s.rxqlen.toNat).map (rxqbuf s)

/-- The schedule of a driver that polls: n times, k block steps and then the line has taken the byte (R199). -/
def pollSchedule (k : Nat) : Nat → List Move
  | 0 => []
  | n + 1 => List.replicate k .block ++ .sent :: pollSchedule k n

/-- A request that no service can make go away (R296): transmit-ready enabled with nothing to send, or
receive-ready enabled with no receive pin bound and a byte waiting. -/
def unservable (s : State) : Bool :=
  (s.ictl.txIe && txReady s && (s.txbound == nullPin || !decide (s.txqcur.toNat < s.txqlen.toNat)))
    || (s.ictl.rxIe && rxReady s && s.rcbound == nullPin)

end Sys2Proof.Machine
end

