-- ==== Sys2Proof/WellFormed.lean ====
section
/-! DEFINITION. Which instructions are well formed under a configuration: their operands name things that exist. -/

namespace Sys2Proof

/-- An instruction whose pin operands are null or pins of PINMAP (R27, R104) and whose address is mapped (R72).
Every other operand is as wide as its field, so nothing else can be ill formed. -/
def Instr.wellFormed (c : Config) (i : Instr) : Bool :=
  match i with
  | .pindir p _ | .pinrd p | .pinwr p _ | .pinana p _ => pinOk c p
  | .serinit rc tx => pinOk c rc && pinOk c tx
  | .ldb a | .stb a _ => (regAt c a).isSome
  | .nop | .tmrinit | .tmrtick | .serproc | .critent | .critexit _ => true

end Sys2Proof
end

