-- ==== Sys2Proof/Certificates/Slice0/Obligations.lean ====
section
/-! DEFINITION. The statements for the provers, in the order of spec/: encoding and decoding, the command port, the
pin unit, the timer unit, the baud-rate generator and SERINIT, SERPROC, the system commands and the register space,
the interrupt, reset and the machine as a whole. -/

open Sys2Proof Sys2Proof.Machine

/-! ## Encoding (spec/30_encoding.md) -/

/-- R103 and spec/95_test_vectors.md part 2: words written out there decode to the commands they stand for. -/
def Obligations.TableWordsDecode : Prop :=
  decode 0x00000000 = .ok .nop ∧ decode 0x01030001 = .ok (.pindir 3 true) ∧ decode 0x02030000 = .ok (.pinrd 3)
    ∧ decode 0x03030001 = .ok (.pinwr 3 true) ∧ decode 0x04030000 = .ok (.pinana 3 false)
    ∧ decode 0x10000000 = .ok .tmrinit ∧ decode 0x11000000 = .ok .tmrtick
    ∧ decode 0x20030400 = .ok (.serinit 3 4) ∧ decode 0x21000000 = .ok .serproc ∧ decode 0x30000000 = .ok .critent
    ∧ decode 0x31000001 = .ok (.critexit true) ∧ decode 0x40001100 = .ok (.ldb 0x011)
    ∧ decode 0x41000E02 = .ok (.stb 0x00E 0x02)

/-- A word decodes to an instruction exactly when it is that instruction's encoding: every encoded instruction is read
back with every operand at every value its field holds, and no bit of a legal word is dropped. -/
def Obligations.DecodeInvertsEncode : Prop := ∀ (w : Word) (i : Instr), decode w = .ok i ↔ encode i = w

/-- R103: a word is an instance of a row exactly when its masked bits are the row's. -/
def Obligations.DecodeFollowsTheOpcodeMap : Prop :=
  ∀ (w : Word) (m : Mnemonic),
    (∃ i, decode w = .ok i ∧ i.mnemonic = m) ↔ w &&& m.mask = m.matchWord

/-- R109: every word is one command or is illegal with the first failing check's cause. -/
def Obligations.FirstFailingCheckGivesTheCause : Prop :=
  ∀ (c : Config) (w : Word),
    ((∀ m : Mnemonic, opField w ≠ m.op) → decodeCommand c w = .error .illegalOpcode)
    ∧ ∀ m : Mnemonic, opField w = m.op →
        (w &&& m.mask ≠ m.matchWord → decodeCommand c w = .error .reservedField)
        ∧ (w &&& m.mask = m.matchWord →
            ((m ∈ [.pindir, .pinrd, .pinwr, .pinana] ∧ badPin c (aField w)
                ∨ m = .serinit ∧ (badPin c (aField w) ∨ badPin c (bField w))) →
              decodeCommand c w = .error .invalidPin)
            ∧ (m = .tmrtick → decodeCommand c w = .error .wrongContext)
            ∧ (m ∈ [.ldb, .stb] → regAt c (addrOf (aField w) (bField w)) = none →
                decodeCommand c w = .error .unmappedAddress)
            ∧ (¬ (m ∈ [.pindir, .pinrd, .pinwr, .pinana] ∧ badPin c (aField w)) →
                ¬ (m = .serinit ∧ (badPin c (aField w) ∨ badPin c (bField w))) → m ≠ .tmrtick →
                ¬ (m ∈ [.ldb, .stb] ∧ regAt c (addrOf (aField w) (bField w)) = none) →
                decodeCommand c w = .ok (m.build (aField w) (bField w) (cField w))))

/-! ## The command port (spec/00_scope.md, spec/30_encoding.md, spec/60_exceptions.md) -/

/-- The block's step at an open port runs the decoded command on the state with its word taken (R15, R110). -/
def Obligations.StepRunsTheDecodedCommand : Prop :=
  ∀ s w rest i, accepts s w rest → decode w = .ok i → step s = exec i (accepted s rest)

/-- R110: a step uses up a word of the host's list only at an open port. -/
def Obligations.WordsAreTakenOnlyAtAnOpenPort : Prop :=
  ∀ s t, step s = .next t → t.cmds ≠ s.cmds →
    portOpen s = true ∧ blockMoves s = true ∧ s.cmds = s.cmds.head?.toList ++ t.cmds

/-- R246: a dropped command changes nothing but STAT, responds 0, and only reset clears what it recorded. -/
def Obligations.DroppedCommandChangesOnlyStat : Prop :=
  (∀ s w rest e, accepts s w rest → decodeCommand s.cfg w = .error e →
    step s = .next { accepted s rest with
      stat := { s.stat with
        cmderr := true
        cause := if s.stat.cmderr then s.stat.cause
          else match e with
            | .illegalOpcode => 1
            | .reservedField => 2
            | .invalidPin => 3
            | .wrongContext => 4
            | .unmappedAddress => 5 }
      res := some 0 })
  ∧ ∀ s t, step s = .next t → s.stat.cmderr = true → s.moves.head? ≠ some .rst →
      t.stat.cmderr = true ∧ t.stat.cause = s.stat.cause

/-! ## The pin unit (spec/40_pin.md) -/

/-- R131, null pin and frame included. -/
def Obligations.PindirWritesTheDirectionBit : Prop :=
  (∀ s out, exec (.pindir nullPin out) s = .next { s with res := some 0 })
  ∧ ∀ s p d out, namesPin s p d →
    (d.dir = none → exec (.pindir p out) s = .next { s with res := some 0 })
    ∧ ∀ k, d.dir = some k →
        exec (.pindir p out) s = .next { s with
          dir := s.dir.set k
            (if out then s.dir.getD k 0 &&& ~~~d.mask else s.dir.getD k 0 ||| d.mask)
          res := some 0 }

/-- R133, null pin and frame included. -/
def Obligations.PinwrWritesTheLatchBit : Prop :=
  (∀ s level, exec (.pinwr nullPin level) s = .next { s with res := some 0 })
  ∧ ∀ s p d level, namesPin s p d →
    (d.lat = none → exec (.pinwr p level) s = .next { s with res := some 0 })
    ∧ ∀ k, d.lat = some k →
        exec (.pinwr p level) s = .next { s with
          lat := s.lat.set k
            (if level then s.lat.getD k 0 ||| d.mask else s.lat.getD k 0 &&& ~~~d.mask)
          res := some 0 }

/-- R134, null pin and frame included. -/
def Obligations.PinanaWritesTheAnalogBit : Prop :=
  (∀ s ana, exec (.pinana nullPin ana) s = .next { s with res := some 0 })
  ∧ ∀ s p d ana, namesPin s p d →
    (d.ansel = none → exec (.pinana p ana) s = .next { s with res := some 0 })
    ∧ ∀ k, d.ansel = some k →
        exec (.pinana p ana) s = .next { s with
          ansel := s.ansel.set k
            (if ana then s.ansel.getD k 0 ||| d.mask else s.ansel.getD k 0 &&& ~~~d.mask)
          res := some 0 }

/-- R132: 0 for the null pin, the latched intent of an output pin with a latch, else the port bit of a fresh draw; no
state of the block written. -/
def Obligations.PinrdReadsTheLatchOrThePort : Prop :=
  (∀ s, exec (.pinrd nullPin) s = .next { s with res := some 0 })
  ∧ ∀ s p d, namesPin s p d →
    (d.port = none → exec (.pinrd p) s = .next { s with res := some 0 })
    ∧ (∀ q k j, d.port = some q → d.dir = some k → s.dir.getD k 0 &&& d.mask = 0 → d.lat = some j →
        exec (.pinrd p) s = .next { s with res := some (if s.lat.getD j 0 &&& d.mask ≠ 0 then 1 else 0) })
    ∧ (∀ q, d.port = some q →
        (d.dir = none ∨ (∃ k, d.dir = some k ∧ s.dir.getD k 0 &&& d.mask ≠ 0) ∨ d.lat = none) →
        exec (.pinrd p) s =
          .next { drawn s with res := some (if nextDraw s &&& d.mask ≠ 0 then 1 else 0) })

/-- R136: output, write true, read returns true whatever the port gives; for a pin without a latch the read returns the
port bit. -/
def Obligations.PinRoundTrip : Prop :=
  ∀ s p d, s.cfg.ok = true → s.cfg.pinMapWf = true → ShapeInv s → namesPin s p d → d.dir.isSome = true →
    ∃ t₁ t₂ t₃, exec (.pindir p true) s = .next t₁ ∧ exec (.pinwr p true) t₁ = .next t₂
      ∧ exec (.pinrd p) t₂ = .next t₃
      ∧ t₃.res = some (if d.lat.isSome then 1 else if nextDraw s &&& d.mask ≠ 0 then 1 else 0)

/-- R32, R133, R294: the latch bit of an input pin does not reach the line, and making the pin an output drives the
level latched before, unless the pin is routed to the UART's transmitter (R176). -/
def Obligations.LatchReachesTheLineWhenThePinIsAnOutput : Prop :=
  ∀ s p d k level, s.cfg.ok = true → s.cfg.pinMapWf = true → ShapeInv s → namesPin s p d →
    d.dir = some k → d.lat.isSome = true → s.dir.getD k 0 &&& d.mask ≠ 0 →
    (outputs s).routeO[p.toNat]? ≠ some (some s.cfg.txFuncCode) →
    ∃ t₁ t₂, exec (.pinwr p level) s = .next t₁ ∧ padDrive s.cfg (outputs t₁) p.toNat d = none
      ∧ exec (.pindir p true) t₁ = .next t₂ ∧ padDrive s.cfg (outputs t₂) p.toNat d = some level

/-- The frame of the four pin commands, byte by byte: nothing of the register space but the one register group, and
STAT where the command is dropped (R135). -/
def Obligations.PinCommandsKeepEveryOtherByte : Prop :=
  ∀ s t p v,
    (exec (.pindir p v) s = .next t →
      t = { s with dir := t.dir, stat := t.stat, res := t.res } ∧ (pinOk s.cfg p = true → t.stat = s.stat)
      ∧ keepsBytesBut (fun r => match r with | .dir _ | .stat => true | _ => false) s t)
    ∧ (exec (.pinwr p v) s = .next t →
      t = { s with lat := t.lat, stat := t.stat, res := t.res } ∧ (pinOk s.cfg p = true → t.stat = s.stat)
      ∧ keepsBytesBut (fun r => match r with | .lat _ | .stat => true | _ => false) s t)
    ∧ (exec (.pinana p v) s = .next t →
      t = { s with ansel := t.ansel, stat := t.stat, res := t.res } ∧ (pinOk s.cfg p = true → t.stat = s.stat)
      ∧ keepsBytesBut (fun r => match r with | .ansel _ | .stat => true | _ => false) s t)
    ∧ (exec (.pinrd p) s = .next t →
      t = { s with script := t.script, draws := t.draws, stat := t.stat, res := t.res }
      ∧ (pinOk s.cfg p = true → t.stat = s.stat)
      ∧ keepsBytesBut (fun r => match r with | .stat => true | _ => false) s t)

/-! ## The timer unit (spec/41_timer.md) -/

/-- R151, and its frame. -/
def Obligations.TmrinitStartsTheTimer : Prop :=
  ∀ s row, s.cfg.freqTable.find? (fun r => r.freq == s.cfg.fClk) = some row →
    exec .tmrinit s = .next { s with
      tpre := row.prescale
      ictl := { s.ictl with tickIe := true }
      tmrms := 0
      tmrus := 0
      stat := { s.stat with tmrRun := true }
      res := some 0 }

/-- R152, R153, and their frames: the body of TMRTICK in interrupt context; on the command port its word is dropped
with cause 4 and changes nothing but STAT. -/
def Obligations.TickCarriesWholeMilliseconds : Prop :=
  (∀ s, s.ctx = .int → ∃ t, exec .tmrtick s = .next t
    ∧ t = { s with tmrms := t.tmrms, tmrus := t.tmrus, tickPending := false }
    ∧ t.tmrms.toNat = (s.tmrms.toNat + (s.tmrus.toNat + s.cfg.tickUs) / 1000) % 2 ^ 32
    ∧ t.tmrus.toNat = (s.tmrus.toNat + s.cfg.tickUs) % 1000)
  ∧ ∀ s rest, accepts s 0x11000000 rest →
    step s = .next { accepted s rest with
      stat := { s.stat with cmderr := true, cause := if s.stat.cmderr then s.stat.cause else 4 }
      res := some 0 }

/-- R154: n ticks after TMRINIT count n * TICK_US microseconds, and the accumulator stays below 1000. -/
def Obligations.TicksCountMicroseconds : Prop :=
  (∀ u, u.ctx = .int → exec .tmrtick u = .next (timerTick u) ∧ TimerInv (timerTick u))
  ∧ ∀ s t, exec .tmrinit s = .next t → TimerInv t ∧ ∀ n,
      (ticks n t).tmrus.toNat = n * s.cfg.tickUs % 1000
      ∧ (ticks n t).tmrms.toNat = n * s.cfg.tickUs / 1000 % 2 ^ 32

/-- R25, R36, R37, R272: who writes the timer's counters and the tick-pending flag, reset apart. -/
def Obligations.TimerStateHasNoOtherWriter : Prop :=
  ∀ s t, step s = .next t → s.moves.head? ≠ some .rst →
    ((t.tmrms, t.tmrus) ≠ (s.tmrms, s.tmrus) →
      (s.seq = .iTick ∧ s.tickPending = true) ∨ runsNext s .tmrinit
      ∨ ∃ a v k, runsNext s (.stb a v) ∧ (regAt s.cfg a = some (.tmrms k) ∨ regAt s.cfg a = some (.tmrus k)))
    ∧ (s.tickPending = false → t.tickPending = true → s.moves.head? = some .tick)
    ∧ (s.tickPending = true → t.tickPending = false → s.seq = .iTick)

/-- R150: Running is left by reset only, and entered by TMRINIT only. -/
def Obligations.TimerRunsUntilReset : Prop :=
  ∀ s t, step s = .next t →
    (s.stat.tmrRun = true → s.moves.head? ≠ some .rst → t.stat.tmrRun = true)
    ∧ (s.stat.tmrRun = false → t.stat.tmrRun = true → runsNext s .tmrinit)

/-! ## The baud-rate generator and SERINIT (spec/42_serial_init_brg.md) -/

/-- R167, R169, R170: the selected pair is the divisor of the coarsest tier that accepts its own. -/
def Obligations.CoarsestAcceptingTierIsSelected : Prop :=
  ∀ (c : Config) (baud i d : Nat),
    brgSelect c baud = some (i, d) ↔
      baud ≠ 0
      ∧ (∃ t, c.tiers[i]? = some t ∧ (d : Int) = ((c.fClk / baud / t.scale : Nat) : Int) - 1
          ∧ t.min ≤ d ∧ d ≤ t.max)
      ∧ ∀ j t, j < i → c.tiers[j]? = some t →
          ((c.fClk / baud / t.scale : Nat) : Int) - 1 < t.min
          ∨ (t.max : Int) < ((c.fClk / baud / t.scale : Nat) : Int) - 1

/-- R174: the achieved rate of an accepted pair is F_CLK / ((d + 1) * scale), never 0, and fits 32 bits. -/
def Obligations.AchievedRateIsNeverZero : Prop :=
  ∀ (c : Config) (baud i d : Nat) (t : Tier), c.ok = true → brgSelect c baud = some (i, d) →
    c.tiers[i]? = some t →
    achieved c i d = c.fClk / ((d + 1) * t.scale) ∧ 1 ≤ achieved c i d ∧ achieved c i d < 2 ^ 32

/-- R171, R175, R176: what a successful SERINIT writes. -/
def Obligations.SerinitProgramsAndBinds : Prop :=
  ∀ s rc tx i d, pinOk s.cfg rc = true → pinOk s.cfg tx = true → brgSelect s.cfg s.arg.toNat = some (i, d) →
    ∃ t, exec (.serinit rc tx) s = .next t
      ∧ t.res = some (BitVec.ofNat 32 (achieved s.cfg i d))
      ∧ t.uctl.tier = BitVec.ofNat 2 i ∧ t.brgl = BitVec.ofNat 8 d ∧ t.brgh = BitVec.ofNat 8 (d / 256)
      ∧ t.serr = false ∧ t.uctl.uartEn = true ∧ t.rcbound = rc
      ∧ (rc = nullPin → t.rxqlen = s.rxqlen ∧ t.mem = s.mem ∧ t.rxsel = s.rxsel ∧ t.uctl.rxEn = s.uctl.rxEn)
      ∧ (∀ dr, namesPin s rc dr →
          t.rxqlen = 0 ∧ (∀ k < s.cfg.rxCap, rxqbuf t k = 0) ∧ t.rxsel = dr.af ∧ t.uctl.rxEn = true)
      ∧ (¬ routedPin s.cfg tx → t.txbound = nullPin ∧ t.route = s.route ∧ t.uctl.txEn = s.uctl.txEn)
      ∧ (routedPin s.cfg tx →
          t.txbound = tx ∧ t.route = s.route.set tx.toNat s.cfg.txFuncCode ∧ t.uctl.txEn = true)

/-- R175 to R177, R181: the pins SERINIT configures, analog-select and direction, the receive pin first; and the levels
its outputs go through within its one block step: the generator's, then the receive pin's analog-select, direction,
input-select and enable, then the transmit pin's analog-select, direction, routing and enable, and `uart_en_o` last,
when every other level has its new value. -/
def Obligations.SerinitConfiguresItsPins : Prop :=
  ∀ s rc tx i d, pinOk s.cfg rc = true → pinOk s.cfg tx = true → brgSelect s.cfg s.arg.toNat = some (i, d) →
    ∃ u t, exec (.serinit rc tx) s = .next t
      ∧ (rc = nullPin → u = s)
      ∧ (rc ≠ nullPin → ∃ u₁ u₂, exec (.pinana rc false) s = .next u₁ ∧ exec (.pindir rc false) u₁ = .next u₂
          ∧ u = u₂)
      ∧ (¬ routedPin s.cfg tx → t.dir = u.dir ∧ t.ansel = u.ansel)
      ∧ (routedPin s.cfg tx → ∃ v₁ v₂, exec (.pinana tx false) u = .next v₁ ∧ exec (.pindir tx true) v₁ = .next v₂
          ∧ t.dir = v₂.dir ∧ t.ansel = v₂.ansel)
      ∧ outputs t = {
          dirO := t.dir, anselO := t.ansel, latO := t.lat
          routeO := (List.range t.cfg.nPins).map
            (fun k => if t.cfg.hasRoute k = true then some (t.route.getD k 0) else none)
          rxselO := t.rxsel, tpreO := t.tpre, uartEnO := t.uctl.uartEn, txEnO := t.uctl.txEn
          rxEnO := t.uctl.rxEn, tierO := t.uctl.tier, brgDivO := t.brgh ++ t.brgl }
      ∧ (let w := serinitLevels i d rc tx s
        let o := { outputs s with tierO := t.uctl.tier, brgDivO := t.brgh ++ t.brgl }
        let r := { o with anselO := u.ansel, dirO := u.dir, rxselO := t.rxsel, rxEnO := t.uctl.rxEn }
        w.getLast? = some (outputs t)
        ∧ (∀ x ∈ w.dropLast, x.uartEnO = s.uctl.uartEn)
        ∧ w.dropLast.getLast? = some { outputs t with uartEnO := s.uctl.uartEn }
        ∧ (rc ≠ nullPin → ∃ pre post, w = pre ++
            [ o,
              { o with anselO := u.ansel },
              { o with anselO := u.ansel, dirO := u.dir },
              { o with anselO := u.ansel, dirO := u.dir, rxselO := t.rxsel },
              { o with anselO := u.ansel, dirO := u.dir, rxselO := t.rxsel, rxEnO := true } ] ++ post)
        ∧ (routedPin s.cfg tx → ∃ pre post, w = pre ++
            [ r,
              { r with anselO := t.ansel },
              { r with anselO := t.ansel, dirO := t.dir },
              { r with anselO := t.ansel, dirO := t.dir, routeO := (outputs t).routeO },
              { r with anselO := t.ansel, dirO := t.dir, routeO := (outputs t).routeO, txEnO := true } ] ++ post))

/-- R172: a SERINIT whose rate no tier accepts writes nothing and responds 0. -/
def Obligations.FailedSerinitWritesNothing : Prop :=
  ∀ s rc tx, pinOk s.cfg rc = true → pinOk s.cfg tx = true → brgSelect s.cfg s.arg.toNat = none →
    exec (.serinit rc tx) s = .next { s with res := some 0 }

/-- R178, and SERINIT's frame: what it never touches, on success, failure or drop. -/
def Obligations.SerinitKeepsTheRest : Prop :=
  ∀ s rc tx t, s.cfg.ok = true → exec (.serinit rc tx) s = .next t →
    t = { s with
      uctl := t.uctl, brgl := t.brgl, brgh := t.brgh, dir := t.dir, ansel := t.ansel, route := t.route,
      rxsel := t.rxsel, mem := t.mem, rxqlen := t.rxqlen, serr := t.serr, rcbound := t.rcbound,
      txbound := t.txbound, stat := t.stat, res := t.res }
    ∧ (pinOk s.cfg rc = true → pinOk s.cfg tx = true → t.stat = s.stat)
    ∧ (∀ k < s.cfg.txCap, txqbuf t k = txqbuf s k)
    ∧ keepsBytesBut
        (fun r => match r with
          | .uctl | .brgl | .brgh | .rxsel | .rxqlen | .serr | .rcbound | .txbound | .stat | .iflg => true
          | .dir _ | .ansel _ | .route _ | .rxqbuf _ => true
          | _ => false) s t

/-- R40, R47, R179: the divisor, the tier and the bound pins change only in a SERINIT or at reset. -/
def Obligations.OnlySerinitRebinds : Prop :=
  ∀ s t, step s = .next t → s.moves.head? ≠ some .rst →
    (t.brgl, t.brgh, t.uctl.tier, t.rcbound, t.txbound) ≠ (s.brgl, s.brgh, s.uctl.tier, s.rcbound, s.txbound) →
    ∃ rc tx, runsNext s (.serinit rc tx) ∧ brgSelect s.cfg s.arg.toNat ≠ none

/-- R165, R180: after a successful SERINIT the peripheral's symbol rate is F_CLK over the programmed divisor and
scale, and its integer part is the response. -/
def Obligations.SymbolRateIsTheAchievedRate : Prop :=
  ∀ s rc tx i d, s.cfg.ok = true → pinOk s.cfg rc = true → pinOk s.cfg tx = true →
    brgSelect s.cfg s.arg.toNat = some (i, d) →
    ∃ t q, exec (.serinit rc tx) s = .next t ∧ symbolRate t = some q ∧ (brgDiv t).toNat = d
      ∧ t.res = some (BitVec.ofNat 32 ⌊q⌋.toNat) ∧ ⌊q⌋ = (achieved s.cfg i d : Int)

/-! ## SERPROC (spec/43_serial_process.md) -/

/-- R190, R192, R196: a host SERPROC starts the micro-steps with PROC_OWNER = BG; the first saves and clears GIE, the
last restores it to its prior value and completes a host SERPROC. That the acceptance is a block step of its own, apart
from S_P_ENTER, is the model's reading (DEDUCED, notes/assumptions/9.md). -/
def Obligations.SerprocSavesAndRestoresGie : Prop :=
  (∀ s, exec .serproc s = .next { s with procOwner := .bg, seq := .pEnter })
  ∧ (∀ s, s.cfg.ok = true → blockMoves s = true → s.seq = .pEnter →
      step s = .next { beginStep s with
        savedGie := s.ictl.gie, ictl := { s.ictl with gie := false }, seq := .pRxchk })
  ∧ ∀ s, s.cfg.ok = true → blockMoves s = true → s.seq = .pExit →
    (s.procOwner = .int →
      step s = .next { beginStep s with ictl := { s.ictl with gie := s.savedGie }, seq := .iRet })
    ∧ (s.procOwner = .bg →
      step s = .next { beginStep s with ictl := { s.ictl with gie := s.savedGie }, seq := .idle, res := some 0 })

/-- R193: the gate of the receive phase and the overrun branch. -/
def Obligations.OverrunResetsTheReceiver : Prop :=
  ∀ s, s.cfg.ok = true → blockMoves s = true → s.seq = .pRxchk →
    (s.rcbound = nullPin → step s = .next { beginStep s with seq := .pTx })
    ∧ (s.rcbound ≠ nullPin → s.uart.oerr = true →
        step s = .next { beginStep s with
          uctl := { s.uctl with rxEn := true }
          uart := { s.uart with oerr := false, rxf := if s.cfg.rxResetFlush then [] else s.uart.rxf }
          strobe := some .rxReset, serr := true, seq := .pTx })
    ∧ (s.rcbound ≠ nullPin → s.uart.oerr = false → step s = .next { beginStep s with seq := .pRxloop })

/-- R194: one iteration of the receive loop, in its four branches. -/
def Obligations.ReceiveLoopTakesOneByte : Prop :=
  ∀ s, s.cfg.ok = true → blockMoves s = true → s.seq = .pRxloop →
    (s.uart.rxf = [] → step s = .next { beginStep s with seq := .pTx })
    ∧ ∀ b fe rest, s.uart.rxf = ⟨b, fe⟩ :: rest →
        (fe = true ∨ s.cfg.rxCap ≤ s.rxqlen.toNat →
          step s = .next { beginStep s with
            uart := { s.uart with rxf := rest }, strobe := some .pop, serr := true })
        ∧ (fe = false → s.rxqlen.toNat < s.cfg.rxCap → ∃ t, step s = .next t
            ∧ t = { beginStep s with
                uart := { s.uart with rxf := rest }, strobe := some .pop, rxqlen := s.rxqlen + 1, mem := t.mem }
            ∧ rxqbuf t s.rxqlen.toNat = b
            ∧ (∀ k, k ≠ s.rxqlen.toNat → rxqbuf t k = rxqbuf s k)
            ∧ ∀ k < s.cfg.txCap, txqbuf t k = txqbuf s k)

/-- R195, R203: the transmit phase sends at most one byte; beyond the buffer the byte is a draw. -/
def Obligations.TransmitSendsAtMostOneByte : Prop :=
  ∀ s, s.cfg.ok = true → blockMoves s = true → s.seq = .pTx →
    (s.txbound = nullPin ∨ s.txqlen.toNat ≤ s.txqcur.toNat ∨ txReady s = false →
      step s = .next { beginStep s with seq := .pExit })
    ∧ (s.txbound ≠ nullPin → s.txqcur.toNat < s.txqlen.toNat → txReady s = true →
        (s.txqcur.toNat < s.cfg.txCap → ∃ t, step s = .next t
          ∧ t = { beginStep s with
              uart := t.uart, strobe := some (.txWrite (txqbuf s s.txqcur.toNat)), txqcur := s.txqcur + 1,
              seq := .pExit }
          ∧ t.uart = { s.uart with txh := t.uart.txh } ∧ t.uart.txh.getLast? = some (txqbuf s s.txqcur.toNat))
        ∧ (s.cfg.txCap ≤ s.txqcur.toNat → ∃ t, step s = .next t
          ∧ t = { drawn (beginStep s) with
              uart := t.uart, strobe := some (.txWrite (nextDraw s)), txqcur := s.txqcur + 1, seq := .pExit }
          ∧ t.uart = { s.uart with txh := t.uart.txh } ∧ t.uart.txh.getLast? = some (nextDraw s)))

/-- R190, R197: a host SERPROC with no environment step inside it runs to completion, and is the function
`serprocBig`, with GIE as it found it. That its steps are 5 and those of the loop rests on the model's reading of the
acceptance as a step (DEDUCED, notes/assumptions/9.md). -/
def Obligations.SerprocIsItsBigStep : Prop :=
  ∀ s ws rest, s.cfg.ok = true → portOpen s = true → s.cmds = 0x21000000 :: ws →
    blockTurns s (serprocSteps s) rest →
    Host.Core.run Sys2Proof.core (serprocSteps s) s =
      .next { serprocBig s with cmds := ws, moves := rest }
    ∧ (serprocBig s).ictl = s.ictl ∧ portOpen { serprocBig s with cmds := ws, moves := rest } =
        !irq (serprocBig s)

/-- R200: with the receive queue full, a SERPROC takes every waiting byte, keeps the buffered ones and the length,
and sets the error flag. The number of its steps rests on notes/assumptions/9.md (DEDUCED). -/
def Obligations.OverflowDropsAndFlags : Prop :=
  ∀ s ws rest, s.cfg.ok = true → portOpen s = true → s.cmds = 0x21000000 :: ws →
    blockTurns s (serprocSteps s) rest →
    s.rcbound ≠ nullPin → s.uart.oerr = false → s.uart.rxf ≠ [] → s.rxqlen.toNat = s.cfg.rxCap →
    ∃ t, Host.Core.run Sys2Proof.core (serprocSteps s) s = .next t
      ∧ t.rxqlen = s.rxqlen ∧ received t = received s ∧ t.serr = true ∧ t.uart.rxf = []

/-- R198, R204: with room for all, a SERPROC appends the bytes that came clean, in order, and sets the error flag
exactly if one did not. The number of its steps rests on notes/assumptions/9.md (DEDUCED). -/
def Obligations.CleanBytesAreAppendedInOrder : Prop :=
  ∀ s ws rest, s.cfg.ok = true → portOpen s = true → s.cmds = 0x21000000 :: ws →
    blockTurns s (serprocSteps s) rest →
    s.rcbound ≠ nullPin → s.uart.oerr = false → s.rxqlen.toNat + s.uart.rxf.length ≤ s.cfg.rxCap →
    ∃ t, Host.Core.run Sys2Proof.core (serprocSteps s) s = .next t
      ∧ received t = received s ++ (s.uart.rxf.filter (fun e => !e.fe)).map (·.byte)
      ∧ t.serr = (s.serr || s.uart.rxf.any (·.fe))
      ∧ unsent { t with txqcur := s.txqcur } = unsent s

/-- R202: every block step but a host store to them keeps the queue registers inside their bounds. -/
def Obligations.QueueBoundsAreKept : Prop :=
  ∀ s t, step s = .next t → SerialInv s → ¬ storesQueueRegister s → SerialInv t

/-- R199: polled SERPROCs, the line taking each byte before the next, transmit every unsent byte exactly once, in
FIFO order, and leave the cursor equal to the length, under the reference environment. The number of steps of each
rests on notes/assumptions/9.md (DEDUCED). -/
def Obligations.PolledSendIsFifoExactlyOnce : Prop :=
  ∀ s ws rest, s.cfg.ok = true → s.cfg.uartEnv = .reference → portOpen s = true → s.ictl.gie = false →
    SerialInv s → s.uctl.uartEn = true → s.uctl.txEn = true → s.txbound ≠ nullPin → s.uart.txh = [] →
    s.uart.rxf = [] → s.uart.oerr = false →
    s.cmds = List.replicate (unsent s).length 0x21000000 ++ ws →
    s.moves = pollSchedule (serprocSteps s) (unsent s).length ++ rest →
    ∃ t, Host.Core.run Sys2Proof.core ((serprocSteps s + 1) * (unsent s).length) s = .next t
      ∧ t.uart.lineTx = s.uart.lineTx ++ unsent s ∧ t.uart.txh = []
      ∧ t.txqcur = t.txqlen ∧ t.txqlen = s.txqlen ∧ t.cmds = ws ∧ t.moves = rest ∧ portOpen t = true

/-- R242: who sets and who clears the error flag. (A host STB of SERR writes it either way, R76.) -/
def Obligations.ErrorFlagSetAndCleared : Prop :=
  ∀ s t, step s = .next t → s.moves.head? ≠ some .rst →
    (s.serr = false → t.serr = true →
      (s.seq = .pRxchk ∧ s.rcbound ≠ nullPin ∧ s.uart.oerr = true)
      ∨ (s.seq = .pRxloop ∧ ∃ e rest, s.uart.rxf = e :: rest ∧ (e.fe = true ∨ s.cfg.rxCap ≤ s.rxqlen.toNat))
      ∨ ∃ v, runsNext s (.stb 0x00C v) ∧ v.getLsbD 0 = true)
    ∧ (s.serr = true → t.serr = false →
      (∃ rc tx, runsNext s (.serinit rc tx) ∧ brgSelect s.cfg s.arg.toNat ≠ none)
      ∨ ∃ v, runsNext s (.stb 0x00C v) ∧ v.getLsbD 0 = false)

/-! ## The system commands and the register space (spec/44_system.md, spec/20_memory.md) -/

/-- R215, R216, R217, and their frames: each changes GIE alone, and NOP not even that. -/
def Obligations.NopAndCriticalSectionCommands : Prop :=
  ∀ s v, exec .nop s = .next { s with res := some 0 }
    ∧ exec .critent s = .next { s with
        ictl := { s.ictl with gie := false }, res := some (if s.ictl.gie then 1 else 0) }
    ∧ exec (.critexit v) s = .next { s with ictl := { s.ictl with gie := v }, res := some 0 }

/-- R224, R75: LDB responds with the byte, zero-extended, and a read has no side effect but to use up a draw of an
unconstrained input; an unmapped address is dropped with cause 5. And what the byte is, register by register, bit by
bit (R24 to R26, R30 to R41, R44 to R48, R74): a wide register's byte k is its bits 8k+7 to 8k. -/
def Obligations.LdbRespondsWithTheByte : Prop :=
  ∀ s a,
    (∀ r, regAt s.cfg a = some r → readDraws s r = false →
      ∃ b, byteAt s a = some b ∧ exec (.ldb a) s = .next { s with res := some (b.setWidth 32) })
    ∧ (∀ r, regAt s.cfg a = some r → readDraws s r = true →
      ∃ b, byteAt s a = some b ∧ exec (.ldb a) s = .next { drawn s with res := some (b.setWidth 32) })
    ∧ (regAt s.cfg a = none → exec (.ldb a) s = .next { s with
        stat := { s.stat with cmderr := true, cause := if s.stat.cmderr then s.stat.cause else 5 }
        res := some 0 })
    ∧ ∀ r, regAt s.cfg a = some r → ∃ b : Byte, byteAt s a = some b ∧
      match r with
      | .ictl => b = BitVec.ofBool s.ictl.gie ++ 0#4 ++ BitVec.ofBool s.ictl.tickIe ++ BitVec.ofBool s.ictl.rxIe
          ++ BitVec.ofBool s.ictl.txIe
      | .iflg => b = 0#5 ++ BitVec.ofBool s.tickPending ++ BitVec.ofBool (!s.uart.rxf.isEmpty) ++ BitVec.ofBool
          (match s.cfg.uartEnv with
            | .reference => s.uctl.uartEn && s.uctl.txEn && s.uart.txh.isEmpty
            | .contract => s.uart.txLevel)
      | .uctl => b = BitVec.ofBool s.uctl.uartEn ++ 0#1 ++ BitVec.ofBool s.uctl.txEn ++ BitVec.ofBool s.uctl.rxEn
          ++ 0#2 ++ s.uctl.tier
      | .usta => ∃ fe, b = 0#5 ++ BitVec.ofBool fe ++ BitVec.ofBool s.uart.oerr ++ 0#1
          ∧ ∀ e rest, s.uart.rxf = e :: rest → fe = e.fe
      | .brgl => b = s.brgl
      | .brgh => b = s.brgh
      | .rxsel => b = s.rxsel
      | .tpre => b = s.tpre
      | .stat => b = BitVec.ofBool s.stat.cmderr ++ s.stat.cause ++ 0#3 ++ BitVec.ofBool s.stat.tmrRun
      | .serr => b = 0#7 ++ BitVec.ofBool s.serr
      | .rxqlen => b = s.rxqlen
      | .txqlen => b = s.txqlen
      | .txqcur => b = s.txqcur
      | .tmrms k => b = s.tmrms.extractLsb' (8 * k) 8
      | .tmrus k => b = s.tmrus.extractLsb' (8 * k) 8
      | .rcbound => b = s.rcbound
      | .txbound => b = s.txbound
      | .arg k => b = s.arg.extractLsb' (8 * k) 8
      | .cfgfreq k => b = (BitVec.ofNat 32 s.cfg.fClk).extractLsb' (8 * k) 8
      | .cfgdev k => b = s.cfg.deviceName.getD k 0
      | .dir p => b = s.dir.getD p 0
      | .portin _ => b = nextDraw s
      | .ansel p => b = s.ansel.getD p 0
      | .lat p => b = s.lat.getD p 0
      | .route j => b = s.route.getD j 0
      | .rxqbuf k => b = rxqbuf s k
      | .txqbuf k => b = txqbuf s k

/-- R225, with R76: what STB makes of the byte it names, so what reading it back gives; a register the host cannot write
is left as it is; an unmapped address is dropped with cause 5. -/
def Obligations.StbStoresItsByte : Prop :=
  ∀ s a v,
    (∀ r, regAt s.cfg a = some r → ∃ t, exec (.stb a v) s = .next t ∧ t.res = some 0
      ∧ match r with
        | .ictl => byteAt t a = some (v &&& 0x87)
        | .serr => byteAt t a = some (v &&& 0x01)
        | .rxqlen | .txqlen | .txqcur => byteAt t a = some v
        | .tmrms _ | .tmrus _ | .arg _ | .rxqbuf _ | .txqbuf _ => byteAt t a = some v
        | _ => t = { s with res := some 0 })
    ∧ (regAt s.cfg a = none → exec (.stb a v) s = .next { s with
        stat := { s.stat with cmderr := true, cause := if s.stat.cmderr then s.stat.cause else 5 }
        res := some 0 })

/-- The frame of STB (R76, R78): every byte but the one stored to reads as before, and so does all state but the
host-writable registers; STAT is kept at a mapped address. -/
def Obligations.StbKeepsEveryOtherByte : Prop :=
  ∀ s a v r t, s.cfg.ok = true → regAt s.cfg a = some r → exec (.stb a v) s = .next t →
    t = { s with
      ictl := t.ictl, serr := t.serr, rxqlen := t.rxqlen, txqlen := t.txqlen, txqcur := t.txqcur,
      tmrms := t.tmrms, tmrus := t.tmrus, arg := t.arg, mem := t.mem, res := t.res }
    ∧ ∀ a' r', regAt s.cfg a' = some r' → readDraws s r' = false → a' ≠ a → byteAt t a' = byteAt s a'

/-- The frames, byte by byte, of the commands that store nothing (R75, R151 to R153, R215 to R217, R224). That accepting
SERPROC keeps every byte, ICTL included, is the model's reading (DEDUCED, notes/assumptions/9.md): the acceptance is a
block step of its own, and GIE is cleared by the next, S_P_ENTER (R192). -/
def Obligations.CommandsThatStoreNothingKeepEveryByte : Prop :=
  ∀ s t,
    (exec .nop s = .next t → keepsBytesBut (fun _ => false) s t)
    ∧ (exec .serproc s = .next t → keepsBytesBut (fun _ => false) s t)
    ∧ (exec .critent s = .next t → keepsBytesBut (fun r => r == .ictl) s t)
    ∧ (∀ v, exec (.critexit v) s = .next t → keepsBytesBut (fun r => r == .ictl) s t)
    ∧ (∀ a, exec (.ldb a) s = .next t → keepsBytesBut (fun r => r == .stat) s t)
    ∧ (exec .tmrinit s = .next t → keepsBytesBut
        (fun r => match r with | .ictl | .tpre | .stat | .tmrms _ | .tmrus _ => true | _ => false) s t)
    ∧ (exec .tmrtick s = .next t → keepsBytesBut
        (fun r => match r with | .iflg | .stat | .tmrms _ | .tmrus _ => true | _ => false) s t)

/-- R71: the address map. -/
def Obligations.AddressMapIsTheTable : Prop :=
  ∀ c : Config, c.ok = true →
    regAt c 0x000 = some .ictl ∧ regAt c 0x001 = some .iflg ∧ regAt c 0x002 = some .uctl
    ∧ regAt c 0x003 = some .usta ∧ regAt c 0x004 = some .brgl ∧ regAt c 0x005 = some .brgh
    ∧ regAt c 0x006 = some .rxsel ∧ regAt c 0x007 = some .tpre ∧ regAt c 0x008 = some .stat
    ∧ regAt c 0x00C = some .serr ∧ regAt c 0x00D = some .rxqlen ∧ regAt c 0x00E = some .txqlen
    ∧ regAt c 0x00F = some .txqcur ∧ (∀ k < 4, regAt c (BitVec.ofNat 12 (0x010 + k)) = some (.tmrms k))
    ∧ (∀ k < 2, regAt c (BitVec.ofNat 12 (0x014 + k)) = some (.tmrus k))
    ∧ regAt c 0x016 = some .rcbound ∧ regAt c 0x017 = some .txbound
    ∧ (∀ k < 4, regAt c (BitVec.ofNat 12 (0x018 + k)) = some (.arg k))
    ∧ (∀ k < 4, regAt c (BitVec.ofNat 12 (0x020 + k)) = some (.cfgfreq k))
    ∧ (∀ k < 16, regAt c (BitVec.ofNat 12 (0x030 + k)) = some (.cfgdev k))
    ∧ (∀ p < c.nPorts, regAt c (BitVec.ofNat 12 (0x040 + 4 * p)) = some (.dir p)
        ∧ regAt c (BitVec.ofNat 12 (0x041 + 4 * p)) = some (.portin p)
        ∧ regAt c (BitVec.ofNat 12 (0x042 + 4 * p)) = some (.ansel p)
        ∧ regAt c (BitVec.ofNat 12 (0x043 + 4 * p)) = some (.lat p))
    ∧ (∀ i, c.hasRoute i = true → regAt c (BitVec.ofNat 12 (0x080 + i)) = some (.route i))
    ∧ (∀ k < c.rxCap, regAt c (BitVec.ofNat 12 (0x100 + k)) = some (.rxqbuf k))
    ∧ ∀ k < c.txCap, regAt c (BitVec.ofNat 12 (0x200 + k)) = some (.txqbuf k)

/-- R72: every other address is unmapped, and an LDB or STB to it is dropped with cause 5. -/
def Obligations.EveryOtherAddressIsUnmapped : Prop :=
  ∀ (s : State) (a : Addr), s.cfg.ok = true →
    ((regAt s.cfg a = none ↔
      (0x009 ≤ a.toNat ∧ a.toNat ≤ 0x00B) ∨ (0x01C ≤ a.toNat ∧ a.toNat ≤ 0x01F)
      ∨ (0x024 ≤ a.toNat ∧ a.toNat ≤ 0x02F) ∨ (0x040 + 4 * s.cfg.nPorts ≤ a.toNat ∧ a.toNat ≤ 0x07F)
      ∨ (0x080 ≤ a.toNat ∧ a.toNat ≤ 0x0FF ∧ s.cfg.hasRoute (a.toNat - 0x080) = false)
      ∨ (0x100 + s.cfg.rxCap ≤ a.toNat ∧ a.toNat ≤ 0x1FF) ∨ (0x200 + s.cfg.txCap ≤ a.toNat))
    ∧ (regAt s.cfg a = none → ∀ v, ∃ t, exec (.ldb a) s = .next t ∧ exec (.stb a v) s = .next t
        ∧ t = { s with
            stat := { s.stat with cmderr := true, cause := if s.stat.cmderr then s.stat.cause else 5 }
            res := some 0 }))

/-- R74, R79: a register wider than a byte lies little-endian at consecutive addresses, and the reserved bits read 0 in
every state, so after every write. -/
def Obligations.WideRegistersAreLittleEndianAndReservedBitsReadZero : Prop :=
  ∀ s, s.cfg.ok = true →
    (∃ b₀ b₁ b₂ b₃, byteAt s 0x010 = some b₀ ∧ byteAt s 0x011 = some b₁ ∧ byteAt s 0x012 = some b₂
      ∧ byteAt s 0x013 = some b₃ ∧ (b₃ ++ b₂ ++ b₁ ++ b₀ : Word) = s.tmrms)
    ∧ (∃ b₀ b₁, byteAt s 0x014 = some b₀ ∧ byteAt s 0x015 = some b₁ ∧ (b₁ ++ b₀ : Half) = s.tmrus)
    ∧ (∃ b₀ b₁ b₂ b₃, byteAt s 0x018 = some b₀ ∧ byteAt s 0x019 = some b₁ ∧ byteAt s 0x01A = some b₂
      ∧ byteAt s 0x01B = some b₃ ∧ (b₃ ++ b₂ ++ b₁ ++ b₀ : Word) = s.arg)
    ∧ (∃ b₀ b₁ b₂ b₃, byteAt s 0x020 = some b₀ ∧ byteAt s 0x021 = some b₁ ∧ byteAt s 0x022 = some b₂
      ∧ byteAt s 0x023 = some b₃ ∧ (b₃ ++ b₂ ++ b₁ ++ b₀ : Word).toNat = s.cfg.fClk)
    ∧ (∀ k < 16, byteAt s (BitVec.ofNat 12 (0x030 + k)) = s.cfg.deviceName[k]?)
    ∧ (∃ b, byteAt s 0x000 = some b ∧ b &&& 0x78 = 0) ∧ (∃ b, byteAt s 0x001 = some b ∧ b &&& 0xF8 = 0)
    ∧ (∃ b, byteAt s 0x008 = some b ∧ b &&& 0x0E = 0) ∧ (∃ b, byteAt s 0x002 = some b ∧ b &&& 0x4C = 0)
    ∧ (∃ b, byteAt s 0x003 = some b ∧ b &&& 0xF9 = 0) ∧ ∃ b, byteAt s 0x00C = some b ∧ b &&& 0xFE = 0

/-! ## The interrupt (spec/60_exceptions.md) -/

/-- R251: the interrupt request, over the bytes of ICTL and IFLG as the host reads them. -/
def Obligations.InterruptRequestEquation : Prop :=
  ∀ s, s.cfg.ok = true → ∃ e f, byteAt s 0x000 = some e ∧ byteAt s 0x001 = some f
    ∧ (irq s = true ↔ e.getLsbD 7 = true ∧
        ((e.getLsbD 2 = true ∧ f.getLsbD 2 = true) ∨ (e.getLsbD 1 = true ∧ f.getLsbD 1 = true)
          ∨ (e.getLsbD 0 = true ∧ f.getLsbD 0 = true)))

/-- R252, R253, R256: at a boundary with the request true the next block step is interrupt entry, and no command is
accepted; interrupt return. -/
def Obligations.InterruptEntryAndReturn : Prop :=
  ∀ s, s.cfg.ok = true → blockMoves s = true →
    (s.seq = .idle → s.ctx = .bg → irq s = true →
      step s = .next { beginStep s with ictl := { s.ictl with gie := false }, ctx := .int, seq := .iTick })
    ∧ (s.seq = .iRet →
      step s = .next { beginStep s with ictl := { s.ictl with gie := true }, ctx := .bg, seq := .idle })

/-- R254: the tick stage runs the body of TMRTICK if TICK_PENDING is 1, whatever TICK_IE is. -/
def Obligations.TickStageTestsTickPending : Prop :=
  ∀ s, s.cfg.ok = true → blockMoves s = true → s.seq = .iTick → s.ctx = .int →
    (s.tickPending = false → step s = .next { beginStep s with procOwner := .int, seq := .pEnter })
    ∧ (s.tickPending = true → ∃ u, exec .tmrtick (beginStep s) = .next u
        ∧ step s = .next { u with procOwner := .int, seq := .pEnter })

/-- R253 to R256, R258, R300: an interrupt service with no environment step inside it runs to its return, serves the
tick and then the queues, and leaves the background context as it was. -/
def Obligations.ServiceRestoresTheBackground : Prop :=
  ∀ s rest, s.cfg.ok = true → s.seq = .idle → s.ctx = .bg → irq s = true → blockTurns s (serviceSteps s) rest →
    ∃ t, Host.Core.run Sys2Proof.core (serviceSteps s) s = .next t
      ∧ t = { serviceBig s with moves := rest }
      ∧ t.ictl = s.ictl ∧ t.ctx = .bg ∧ t.seq = .idle ∧ t.arg = s.arg ∧ t.cmds = s.cmds ∧ t.stat = s.stat
      ∧ t.dir = s.dir ∧ t.ansel = s.ansel ∧ t.lat = s.lat ∧ t.route = s.route
      ∧ t.tickPending = false
      ∧ (s.tickPending = true → (t.tmrms, t.tmrus) = ((timerTick s).tmrms, (timerTick s).tmrus))
      ∧ (s.tickPending = false → (t.tmrms, t.tmrus) = (s.tmrms, s.tmrus))

/-- R257: no interrupt is requested in interrupt context, and only the return leaves it. -/
def Obligations.InterruptsDoNotNest : Prop :=
  ∀ s t, ControlInv s → s.ctx = .int → s.moves.head? ≠ some .rst → step s = .next t →
    irq s = false ∧ (t.ctx = .int ∨ (s.seq = .iRet ∧ t.ctx = .bg ∧ t.seq = .idle))

/-- R296: a request no service can make go away live-locks the block: however long it runs, the host presents no
further word and the run is not over. -/
def Obligations.UnservableRequestLivelocks : Prop :=
  ∀ s n, s.cfg.ok = true → s.moves = [] → s.seq = .idle → s.ctx = .bg → s.ictl.gie = true →
    unservable s = true →
    ∃ t, Host.Core.run Sys2Proof.core n s = .next t ∧ t.cmds = s.cmds ∧ runOver t = false

/-! ## The environment (spec/60_exceptions.md R265 to R273) -/

/-- R14, R51, R266 to R269, R272: a step of the environment other than reset touches the peripheral or TICK_PENDING and
nothing else of the block, and what each of them does there: the tick is merged with one that is pending; an arrival at
an enabled receiver with no overrun is appended while fewer than RXF_DEPTH bytes are held and else raises the overrun;
the oldest byte held goes out on the line. That a step not available in a state changes nothing there is the model's
choice (notes/assumptions/4.md), and so are the three moves of a contract peripheral (notes/assumptions/5.md). -/
def Obligations.EnvironmentStepsLeaveTheBlock : Prop :=
  ∀ s m ms, s.cfg.ok = true → s.moves = m :: ms → m ≠ .block → m ≠ .rst →
    ∃ t, step s = .next t ∧ t = { beginStep s with uart := t.uart, tickPending := t.tickPending }
      ∧ (m = .tick → t.uart = s.uart ∧ t.tickPending = true)
      ∧ (m ≠ .tick → t.tickPending = s.tickPending)
      ∧ (∀ b fe, m = .arrive b fe →
          (s.cfg.uartEnv = .reference → s.uctl.uartEn = true → s.uctl.rxEn = true → s.uart.oerr = false →
            (s.uart.rxf.length < s.cfg.rxfDepth → t.uart = { s.uart with rxf := s.uart.rxf ++ [⟨b, fe⟩] })
            ∧ (s.cfg.rxfDepth ≤ s.uart.rxf.length → t.uart = { s.uart with oerr := true }))
          ∧ (s.cfg.uartEnv = .contract ∨ s.uctl.uartEn = false ∨ s.uctl.rxEn = false ∨ s.uart.oerr = true →
            t.uart = s.uart))
      ∧ (m = .sent →
          (s.uart.txh = [] → t.uart = s.uart)
          ∧ ∀ b rest, s.uart.txh = b :: rest →
            t.uart = { s.uart with txh := rest, lineTx := s.uart.lineTx ++ [b] })
      ∧ (s.cfg.uartEnv = .contract →
          (∀ b fe, m = .deliver b fe → t.uart = { s.uart with rxf := s.uart.rxf ++ [⟨b, fe⟩] })
          ∧ (m = .overrun → t.uart = { s.uart with oerr := true })
          ∧ ∀ v, m = .txReady v → t.uart = { s.uart with txLevel := v })
      ∧ (s.cfg.uartEnv = .reference → (∃ b fe, m = .deliver b fe) ∨ m = .overrun ∨ (∃ v, m = .txReady v) →
          t.uart = s.uart)

/-- R267: a received byte stays at the head, with its framing mark, until it is popped or the receiver is reset; and
oerr stays until the receiver is reset. -/
def Obligations.ReceivedByteIsStable : Prop :=
  ∀ s t, step s = .next t → s.moves.head? ≠ some .rst →
    (∀ e rest, s.uart.rxf = e :: rest →
      (∃ more, t.uart.rxf = e :: rest ++ more)
      ∨ (t.strobe = some .pop ∧ t.uart.rxf = rest)
      ∨ (t.strobe = some .rxReset ∧ s.cfg.rxResetFlush = true ∧ t.uart.rxf = []))
    ∧ (s.uart.oerr = true → t.uart.oerr = true ∨ t.strobe = some .rxReset)

/-- R268: a byte is handed to the transmitter only while tx_ready is 1, none is lost, and they leave in the order
written. -/
def Obligations.TransmittedBytesKeepTheirOrder : Prop :=
  ∀ s t, step s = .next t → s.moves.head? ≠ some .rst →
    (∀ b, t.strobe = some (.txWrite b) →
      txReady s = true ∧ t.uart.lineTx ++ t.uart.txh = s.uart.lineTx ++ s.uart.txh ++ [b])
    ∧ ((∀ b, t.strobe ≠ some (.txWrite b)) → t.uart.lineTx ++ t.uart.txh = s.uart.lineTx ++ s.uart.txh)

/-! ## Reset and the machine as a whole (spec/10_state.md, spec/70_reset_and_hazards.md) -/

/-- R53: the values the spec gives for reset. -/
def Obligations.ResetValues : Prop :=
  ∀ c e, let s := State.resetAt c e; s.ctx = .bg ∧ s.seq = .idle ∧ s.procOwner = .bg ∧ s.savedGie = false
    ∧ s.ictl.toByte = 0x00 ∧ s.tickPending = false ∧ s.stat.toByte = 0x00
    ∧ (∀ p < c.nPorts, s.dir[p]? = some 0xFF ∧ s.ansel[p]? = some 0xFF)
    ∧ (∀ i < c.nPins, s.route[i]? = some 0x00) ∧ s.rxsel = 0x00 ∧ s.tpre = 0x00 ∧ s.uctl.toByte = 0x00
    ∧ s.brgl = 0x00 ∧ s.brgh = 0x00 ∧ s.rxqlen = 0 ∧ s.txqlen = 0 ∧ s.txqcur = 0 ∧ serrByte s = 0x00
    ∧ s.rcbound = 0xFF ∧ s.txbound = 0xFF ∧ SerialInv s
    ∧ (∀ k, readReg s (.cfgfreq k) = byteOf (BitVec.ofNat 32 c.fClk) k)
    ∧ ∀ k, readReg s (.cfgdev k) = c.deviceName.getD k 0

/-- R280: asserting `rst` puts the block in the reset state whatever it was doing, and a command, never an
interrupt, is what it takes next. That the host's words, the schedule and the settled draws stay is the model's choice
(notes/assumptions/15.md). -/
def Obligations.RstResetsTheBlock : Prop :=
  ∀ s ms, s.cfg.ok = true → s.moves = .rst :: ms → ∃ t, step s = .next t
    ∧ t = { State.resetAt s.cfg (s.epoch + 1) with
        cmds := s.cmds, moves := ms, uart := t.uart, script := s.script, draws := s.draws }
    ∧ (s.cfg.uartEnv = .reference → t.uart = .empty) ∧ portOpen t = true

/-- The invariant holds after reset, under every configuration. -/
def Obligations.InvHoldsAtReset : Prop := ∀ c, c.ok = true → MachineInv (State.resetOf c)

/-- Every step of every agent keeps the invariant: the control state, the shape of the registers and of memory, the
fields that name things, the reference environment's bounds. -/
def Obligations.StepKeepsInv : Prop := ∀ s t, MachineInv s → step s = .next t → MachineInv t

/-- R240: from every state that meets the invariant a step gives a next state; no error stops the block. -/
def Obligations.NoErrorStopsTheBlock : Prop := ∀ s, MachineInv s → ∃ t, step s = .next t

/-- R7 to R9: parameters that are not a configuration have no behaviour, and no step changes the configuration. R9
refuses an F_CLK outside SUPPORTED_FREQS or without a row; that any other broken constraint of R8 or R166 is refused
too is the model's choice (DESIGN CHOICE, notes/assumptions/12.md). -/
def Obligations.ConfigurationIsFixedAndChecked : Prop :=
  (∀ s, s.cfg.ok = false → step s = .refused .notAConfiguration)
  ∧ (∀ c : Config, (c.fClk ∉ c.supportedFreqs ∨ ∀ r ∈ c.freqTable, r.freq ≠ c.fClk) → c.ok = false)
  ∧ ∀ s t, step s = .next t → t.cfg = s.cfg
end

