-- ==== Sys2Proof/Laws/Decode.lean ====
section
/-! SUPPORT. The fields of a packed word, the opcode map both ways, and what decoding a word comes to. -/

namespace Sys2Proof

@[simp] theorem opField_packWord (op a b c : Byte) : opField (packWord op a b c) = op := by
  simp only [opField, packWord]
  ext i hi
  simp only [BitVec.getElem_extractLsb', BitVec.getLsbD_append]
  rw [if_neg (by omega), if_neg (by omega), if_neg (by omega)]
  simp [show 24 + i - 8 - 8 - 8 = i by omega, BitVec.getLsbD_eq_getElem hi]

@[simp] theorem aField_packWord (op a b c : Byte) : aField (packWord op a b c) = a := by
  simp only [aField, packWord]
  ext i hi
  simp only [BitVec.getElem_extractLsb', BitVec.getLsbD_append]
  rw [if_neg (by omega), if_neg (by omega), if_pos (by omega)]
  simp [show 16 + i - 8 - 8 = i by omega, BitVec.getLsbD_eq_getElem hi]

@[simp] theorem bField_packWord (op a b c : Byte) : bField (packWord op a b c) = b := by
  simp only [bField, packWord]
  ext i hi
  simp only [BitVec.getElem_extractLsb', BitVec.getLsbD_append]
  rw [if_neg (by omega), if_pos (by omega)]
  simp [show 8 + i - 8 = i by omega, BitVec.getLsbD_eq_getElem hi]

@[simp] theorem cField_packWord (op a b c : Byte) : cField (packWord op a b c) = c := by
  simp only [cField, packWord]
  ext i hi
  simp only [BitVec.getElem_extractLsb', BitVec.getLsbD_append]
  rw [if_pos (by omega)]
  simp [BitVec.getLsbD_eq_getElem hi]

/-- A word is its four fields (R101). -/
theorem packWord_fields (w : Word) : packWord (opField w) (aField w) (bField w) (cField w) = w := by
  ext i hi
  rw [← BitVec.getLsbD_eq_getElem]
  simp only [packWord, opField, aField, bField, cField, BitVec.getLsbD_append, BitVec.getLsbD_extractLsb']
  split
  · rename_i h; simp [BitVec.getLsbD_eq_getElem hi, h]
  · split
    · rename_i h h'; simp [h', show 8 + (i - 8) = i by omega, BitVec.getLsbD_eq_getElem hi]
    · split
      · rename_i h h' h''; simp [h'', show 16 + (i - 8 - 8) = i by omega, BitVec.getLsbD_eq_getElem hi]
      · rename_i h h' h''
        simp [show i - 8 - 8 - 8 < 8 by omega, show 24 + (i - 8 - 8 - 8) = i by omega, BitVec.getLsbD_eq_getElem hi]

@[simp] theorem ofOp_op (m : Mnemonic) : Mnemonic.ofOp m.op = some m := by cases m <;> rfl

theorem ofOp_eq_some {op : Byte} {m : Mnemonic} : Mnemonic.ofOp op = some m ↔ op = m.op := by
  constructor
  · intro h
    have key : ∀ o : Byte, (Mnemonic.ofOp o).all (fun m => o == m.op) = true := by decide
    simpa [h] using key op
  · rintro rfl; exact ofOp_op m

theorem ofOp_eq_none {op : Byte} : Mnemonic.ofOp op = none ↔ ∀ m : Mnemonic, op ≠ m.op := by
  constructor
  · intro h m hm; simp [hm] at h
  · intro h
    match hm : Mnemonic.ofOp op with
    | none => rfl
    | some m => exact absurd (ofOp_eq_some.mp hm) (h m)

@[simp] theorem flagByte_bit (f : Bool) : (flagByte f).getLsbD 0 = f := by cases f <;> rfl

@[simp] theorem flagByte_reserved (f : Bool) : (flagByte f).extractLsb' 1 7 = 0 := by cases f <;> rfl

/-- A byte whose bits 7:1 are zero is its flag. -/
theorem flagByte_eq {c : Byte} (h : c.extractLsb' 1 7 = 0) : flagByte (c.getLsbD 0) = c := by
  have key : ∀ c : Byte, c.extractLsb' 1 7 = 0 → flagByte (c.getLsbD 0) = c := by decide
  exact key c h

@[simp] theorem addrHigh_reserved (a : Addr) : (addrHigh a).extractLsb' 4 4 = 0 := by
  simp only [addrHigh]
  ext i hi
  simp only [BitVec.getElem_extractLsb', BitVec.getLsbD_append]
  rw [if_neg (by omega)]
  simp

@[simp] theorem addrOf_fields (a : Addr) : addrOf (addrHigh a) (addrLow a) = a := by
  ext i hi
  rw [← BitVec.getLsbD_eq_getElem]
  simp only [addrOf, addrHigh, addrLow, BitVec.getLsbD_append, BitVec.getLsbD_extractLsb']
  split
  · rename_i h; simp [h, BitVec.getLsbD_eq_getElem hi]
  · rename_i h
    simp [show i - 8 < 4 by omega, show 8 + (i - 8) = i by omega, BitVec.getLsbD_eq_getElem hi]

theorem addrLow_addrOf (a b : Byte) : addrLow (addrOf a b) = b := by
  simp only [addrLow, addrOf]
  ext i hi
  simp only [BitVec.getElem_extractLsb', BitVec.getLsbD_append]
  rw [if_pos (by omega)]
  simp [BitVec.getLsbD_eq_getElem hi]

theorem addrHigh_addrOf {a b : Byte} (h : a.extractLsb' 4 4 = 0) : addrHigh (addrOf a b) = a := by
  have hb : (addrOf a b).extractLsb' 8 4 = a.extractLsb' 0 4 := by
    simp only [addrOf]
    ext i hi
    simp only [BitVec.getElem_extractLsb', BitVec.getLsbD_append]
    rw [if_neg (by omega)]
    simp [show 8 + i - 8 = i by omega, hi]
  have key : ∀ a : Byte, a.extractLsb' 4 4 = 0 → (0#4 ++ a.extractLsb' 0 4 : BitVec 8) = a := by decide
  simpa [addrHigh, hb] using key a h

/-- What decoding a word comes to (R109 checks 1 and 2). -/
theorem decode_eq_ok {w : Word} {i : Instr} :
    decode w = .ok i ↔ ∃ m : Mnemonic, opField w = m.op
      ∧ m.format.reservedZero (aField w) (bField w) (cField w) = true
      ∧ i = m.build (aField w) (bField w) (cField w) := by
  constructor
  · intro h
    unfold decode at h
    split at h
    · cases h
    · rename_i m hm
      split at h
      · rename_i hz
        exact ⟨m, ofOp_eq_some.mp hm, hz, by injection h with h; exact h.symm⟩
      · cases h
  · rintro ⟨m, hm, hz, rfl⟩
    simp [decode, hm, hz]

theorem packWord_and (o a b c o' a' b' c' : Byte) :
    packWord o a b c &&& packWord o' a' b' c' = packWord (o &&& o') (a &&& a') (b &&& b') (c &&& c') := by
  ext i hi
  rw [← BitVec.getLsbD_eq_getElem, ← BitVec.getLsbD_eq_getElem]
  simp only [packWord, BitVec.getLsbD_and, BitVec.getLsbD_append]
  repeat' split
  all_goals rfl

end Sys2Proof
end

