-- ==== Sys2Proof/Laws/State.lean ====
section
/-! SUPPORT. What each shared update of the state changes and keeps, so that no later proof unfolds it. A lemma
`<update>_keeps` lists every field the update leaves alone; `<update>_sets` gives the fields it writes. -/

namespace Sys2Proof.Machine

@[simp] theorem complete_keeps (r : Word) (s : State) :
    (complete r s).cfg = s.cfg ∧ (complete r s).arg = s.arg ∧ (complete r s).ctx = s.ctx
    ∧ (complete r s).seq = s.seq ∧ (complete r s).procOwner = s.procOwner
    ∧ (complete r s).savedGie = s.savedGie ∧ (complete r s).ictl = s.ictl
    ∧ (complete r s).tickPending = s.tickPending ∧ (complete r s).stat = s.stat ∧ (complete r s).dir = s.dir
    ∧ (complete r s).ansel = s.ansel ∧ (complete r s).lat = s.lat ∧ (complete r s).route = s.route
    ∧ (complete r s).rxsel = s.rxsel ∧ (complete r s).tmrms = s.tmrms ∧ (complete r s).tmrus = s.tmrus
    ∧ (complete r s).tpre = s.tpre ∧ (complete r s).uctl = s.uctl ∧ (complete r s).brgl = s.brgl
    ∧ (complete r s).brgh = s.brgh ∧ (complete r s).mem = s.mem ∧ (complete r s).rxqlen = s.rxqlen
    ∧ (complete r s).txqlen = s.txqlen ∧ (complete r s).txqcur = s.txqcur ∧ (complete r s).serr = s.serr
    ∧ (complete r s).rcbound = s.rcbound ∧ (complete r s).txbound = s.txbound
    ∧ (complete r s).strobe = s.strobe ∧ (complete r s).cmds = s.cmds ∧ (complete r s).moves = s.moves
    ∧ (complete r s).uart = s.uart ∧ (complete r s).script = s.script ∧ (complete r s).draws = s.draws
    ∧ (complete r s).epoch = s.epoch := by
  simp [complete]

@[simp] theorem complete_sets (r : Word) (s : State) :
    (complete r s).res = some r := by
  simp [complete]

@[simp] theorem dropCommand_keeps (c : Cause) (s : State) :
    (dropCommand c s).cfg = s.cfg ∧ (dropCommand c s).arg = s.arg ∧ (dropCommand c s).ctx = s.ctx
    ∧ (dropCommand c s).seq = s.seq ∧ (dropCommand c s).procOwner = s.procOwner
    ∧ (dropCommand c s).savedGie = s.savedGie ∧ (dropCommand c s).ictl = s.ictl
    ∧ (dropCommand c s).tickPending = s.tickPending ∧ (dropCommand c s).dir = s.dir
    ∧ (dropCommand c s).ansel = s.ansel ∧ (dropCommand c s).lat = s.lat ∧ (dropCommand c s).route = s.route
    ∧ (dropCommand c s).rxsel = s.rxsel ∧ (dropCommand c s).tmrms = s.tmrms
    ∧ (dropCommand c s).tmrus = s.tmrus ∧ (dropCommand c s).tpre = s.tpre ∧ (dropCommand c s).uctl = s.uctl
    ∧ (dropCommand c s).brgl = s.brgl ∧ (dropCommand c s).brgh = s.brgh ∧ (dropCommand c s).mem = s.mem
    ∧ (dropCommand c s).rxqlen = s.rxqlen ∧ (dropCommand c s).txqlen = s.txqlen
    ∧ (dropCommand c s).txqcur = s.txqcur ∧ (dropCommand c s).serr = s.serr
    ∧ (dropCommand c s).rcbound = s.rcbound ∧ (dropCommand c s).txbound = s.txbound
    ∧ (dropCommand c s).strobe = s.strobe ∧ (dropCommand c s).cmds = s.cmds
    ∧ (dropCommand c s).moves = s.moves ∧ (dropCommand c s).uart = s.uart
    ∧ (dropCommand c s).script = s.script ∧ (dropCommand c s).draws = s.draws
    ∧ (dropCommand c s).epoch = s.epoch := by
  simp [dropCommand]

@[simp] theorem dropCommand_sets (c : Cause) (s : State) :
    (dropCommand c s).res = some 0 ∧ (dropCommand c s).stat = s.stat.record c := by
  simp [dropCommand]

@[simp] theorem setGie_keeps (v : Bool) (s : State) :
    (setGie v s).cfg = s.cfg ∧ (setGie v s).arg = s.arg ∧ (setGie v s).ctx = s.ctx ∧ (setGie v s).seq = s.seq
    ∧ (setGie v s).procOwner = s.procOwner ∧ (setGie v s).savedGie = s.savedGie
    ∧ (setGie v s).tickPending = s.tickPending ∧ (setGie v s).stat = s.stat ∧ (setGie v s).dir = s.dir
    ∧ (setGie v s).ansel = s.ansel ∧ (setGie v s).lat = s.lat ∧ (setGie v s).route = s.route
    ∧ (setGie v s).rxsel = s.rxsel ∧ (setGie v s).tmrms = s.tmrms ∧ (setGie v s).tmrus = s.tmrus
    ∧ (setGie v s).tpre = s.tpre ∧ (setGie v s).uctl = s.uctl ∧ (setGie v s).brgl = s.brgl
    ∧ (setGie v s).brgh = s.brgh ∧ (setGie v s).mem = s.mem ∧ (setGie v s).rxqlen = s.rxqlen
    ∧ (setGie v s).txqlen = s.txqlen ∧ (setGie v s).txqcur = s.txqcur ∧ (setGie v s).serr = s.serr
    ∧ (setGie v s).rcbound = s.rcbound ∧ (setGie v s).txbound = s.txbound ∧ (setGie v s).res = s.res
    ∧ (setGie v s).strobe = s.strobe ∧ (setGie v s).cmds = s.cmds ∧ (setGie v s).moves = s.moves
    ∧ (setGie v s).uart = s.uart ∧ (setGie v s).script = s.script ∧ (setGie v s).draws = s.draws
    ∧ (setGie v s).epoch = s.epoch := by
  simp [setGie]

@[simp] theorem setGie_sets (v : Bool) (s : State) :
    (setGie v s).ictl = { s.ictl with gie := v } := rfl

@[simp] theorem flagSerErr_keeps (s : State) :
    (flagSerErr s).cfg = s.cfg ∧ (flagSerErr s).arg = s.arg ∧ (flagSerErr s).ctx = s.ctx
    ∧ (flagSerErr s).seq = s.seq ∧ (flagSerErr s).procOwner = s.procOwner
    ∧ (flagSerErr s).savedGie = s.savedGie ∧ (flagSerErr s).ictl = s.ictl
    ∧ (flagSerErr s).tickPending = s.tickPending ∧ (flagSerErr s).stat = s.stat ∧ (flagSerErr s).dir = s.dir
    ∧ (flagSerErr s).ansel = s.ansel ∧ (flagSerErr s).lat = s.lat ∧ (flagSerErr s).route = s.route
    ∧ (flagSerErr s).rxsel = s.rxsel ∧ (flagSerErr s).tmrms = s.tmrms ∧ (flagSerErr s).tmrus = s.tmrus
    ∧ (flagSerErr s).tpre = s.tpre ∧ (flagSerErr s).uctl = s.uctl ∧ (flagSerErr s).brgl = s.brgl
    ∧ (flagSerErr s).brgh = s.brgh ∧ (flagSerErr s).mem = s.mem ∧ (flagSerErr s).rxqlen = s.rxqlen
    ∧ (flagSerErr s).txqlen = s.txqlen ∧ (flagSerErr s).txqcur = s.txqcur
    ∧ (flagSerErr s).rcbound = s.rcbound ∧ (flagSerErr s).txbound = s.txbound ∧ (flagSerErr s).res = s.res
    ∧ (flagSerErr s).strobe = s.strobe ∧ (flagSerErr s).cmds = s.cmds ∧ (flagSerErr s).moves = s.moves
    ∧ (flagSerErr s).uart = s.uart ∧ (flagSerErr s).script = s.script ∧ (flagSerErr s).draws = s.draws
    ∧ (flagSerErr s).epoch = s.epoch := by
  simp [flagSerErr]

@[simp] theorem flagSerErr_sets (s : State) :
    (flagSerErr s).serr = true := rfl

@[simp] theorem envPop_keeps (s : State) :
    (envPop s).cfg = s.cfg ∧ (envPop s).arg = s.arg ∧ (envPop s).ctx = s.ctx ∧ (envPop s).seq = s.seq
    ∧ (envPop s).procOwner = s.procOwner ∧ (envPop s).savedGie = s.savedGie ∧ (envPop s).ictl = s.ictl
    ∧ (envPop s).tickPending = s.tickPending ∧ (envPop s).stat = s.stat ∧ (envPop s).dir = s.dir
    ∧ (envPop s).ansel = s.ansel ∧ (envPop s).lat = s.lat ∧ (envPop s).route = s.route
    ∧ (envPop s).rxsel = s.rxsel ∧ (envPop s).tmrms = s.tmrms ∧ (envPop s).tmrus = s.tmrus
    ∧ (envPop s).tpre = s.tpre ∧ (envPop s).uctl = s.uctl ∧ (envPop s).brgl = s.brgl
    ∧ (envPop s).brgh = s.brgh ∧ (envPop s).mem = s.mem ∧ (envPop s).rxqlen = s.rxqlen
    ∧ (envPop s).txqlen = s.txqlen ∧ (envPop s).txqcur = s.txqcur ∧ (envPop s).serr = s.serr
    ∧ (envPop s).rcbound = s.rcbound ∧ (envPop s).txbound = s.txbound ∧ (envPop s).res = s.res
    ∧ (envPop s).cmds = s.cmds ∧ (envPop s).moves = s.moves ∧ (envPop s).script = s.script
    ∧ (envPop s).draws = s.draws ∧ (envPop s).epoch = s.epoch := by
  simp [envPop]

@[simp] theorem envPop_sets (s : State) :
    (envPop s).uart = { s.uart with rxf := s.uart.rxf.tail } ∧ (envPop s).strobe = some .pop := by
  simp [envPop]

@[simp] theorem envTxWrite_keeps (b : Byte) (s : State) :
    (envTxWrite b s).cfg = s.cfg ∧ (envTxWrite b s).arg = s.arg ∧ (envTxWrite b s).ctx = s.ctx
    ∧ (envTxWrite b s).seq = s.seq ∧ (envTxWrite b s).procOwner = s.procOwner
    ∧ (envTxWrite b s).savedGie = s.savedGie ∧ (envTxWrite b s).ictl = s.ictl
    ∧ (envTxWrite b s).tickPending = s.tickPending ∧ (envTxWrite b s).stat = s.stat
    ∧ (envTxWrite b s).dir = s.dir ∧ (envTxWrite b s).ansel = s.ansel ∧ (envTxWrite b s).lat = s.lat
    ∧ (envTxWrite b s).route = s.route ∧ (envTxWrite b s).rxsel = s.rxsel ∧ (envTxWrite b s).tmrms = s.tmrms
    ∧ (envTxWrite b s).tmrus = s.tmrus ∧ (envTxWrite b s).tpre = s.tpre ∧ (envTxWrite b s).uctl = s.uctl
    ∧ (envTxWrite b s).brgl = s.brgl ∧ (envTxWrite b s).brgh = s.brgh ∧ (envTxWrite b s).mem = s.mem
    ∧ (envTxWrite b s).rxqlen = s.rxqlen ∧ (envTxWrite b s).txqlen = s.txqlen
    ∧ (envTxWrite b s).txqcur = s.txqcur ∧ (envTxWrite b s).serr = s.serr
    ∧ (envTxWrite b s).rcbound = s.rcbound ∧ (envTxWrite b s).txbound = s.txbound
    ∧ (envTxWrite b s).res = s.res ∧ (envTxWrite b s).cmds = s.cmds ∧ (envTxWrite b s).moves = s.moves
    ∧ (envTxWrite b s).script = s.script ∧ (envTxWrite b s).draws = s.draws
    ∧ (envTxWrite b s).epoch = s.epoch := by
  simp [envTxWrite]

@[simp] theorem envTxWrite_sets (b : Byte) (s : State) :
    (envTxWrite b s).strobe = some (.txWrite b) := rfl

@[simp] theorem envRxReset_keeps (s : State) :
    (envRxReset s).cfg = s.cfg ∧ (envRxReset s).arg = s.arg ∧ (envRxReset s).ctx = s.ctx
    ∧ (envRxReset s).seq = s.seq ∧ (envRxReset s).procOwner = s.procOwner
    ∧ (envRxReset s).savedGie = s.savedGie ∧ (envRxReset s).ictl = s.ictl
    ∧ (envRxReset s).tickPending = s.tickPending ∧ (envRxReset s).stat = s.stat ∧ (envRxReset s).dir = s.dir
    ∧ (envRxReset s).ansel = s.ansel ∧ (envRxReset s).lat = s.lat ∧ (envRxReset s).route = s.route
    ∧ (envRxReset s).rxsel = s.rxsel ∧ (envRxReset s).tmrms = s.tmrms ∧ (envRxReset s).tmrus = s.tmrus
    ∧ (envRxReset s).tpre = s.tpre ∧ (envRxReset s).uctl = s.uctl ∧ (envRxReset s).brgl = s.brgl
    ∧ (envRxReset s).brgh = s.brgh ∧ (envRxReset s).mem = s.mem ∧ (envRxReset s).rxqlen = s.rxqlen
    ∧ (envRxReset s).txqlen = s.txqlen ∧ (envRxReset s).txqcur = s.txqcur ∧ (envRxReset s).serr = s.serr
    ∧ (envRxReset s).rcbound = s.rcbound ∧ (envRxReset s).txbound = s.txbound ∧ (envRxReset s).res = s.res
    ∧ (envRxReset s).cmds = s.cmds ∧ (envRxReset s).moves = s.moves ∧ (envRxReset s).script = s.script
    ∧ (envRxReset s).draws = s.draws ∧ (envRxReset s).epoch = s.epoch := by
  simp [envRxReset]

@[simp] theorem envRxReset_sets (s : State) :
    (envRxReset s).uart = { s.uart with oerr := false, rxf := if s.cfg.rxResetFlush then [] else s.uart.rxf }
    ∧ (envRxReset s).strobe = some .rxReset := by
  simp [envRxReset]

@[simp] theorem setRxqbuf_keeps (k : Nat) (v : Byte) (s : State) :
    (setRxqbuf k v s).cfg = s.cfg ∧ (setRxqbuf k v s).arg = s.arg ∧ (setRxqbuf k v s).ctx = s.ctx
    ∧ (setRxqbuf k v s).seq = s.seq ∧ (setRxqbuf k v s).procOwner = s.procOwner
    ∧ (setRxqbuf k v s).savedGie = s.savedGie ∧ (setRxqbuf k v s).ictl = s.ictl
    ∧ (setRxqbuf k v s).tickPending = s.tickPending ∧ (setRxqbuf k v s).stat = s.stat
    ∧ (setRxqbuf k v s).dir = s.dir ∧ (setRxqbuf k v s).ansel = s.ansel ∧ (setRxqbuf k v s).lat = s.lat
    ∧ (setRxqbuf k v s).route = s.route ∧ (setRxqbuf k v s).rxsel = s.rxsel
    ∧ (setRxqbuf k v s).tmrms = s.tmrms ∧ (setRxqbuf k v s).tmrus = s.tmrus ∧ (setRxqbuf k v s).tpre = s.tpre
    ∧ (setRxqbuf k v s).uctl = s.uctl ∧ (setRxqbuf k v s).brgl = s.brgl ∧ (setRxqbuf k v s).brgh = s.brgh
    ∧ (setRxqbuf k v s).rxqlen = s.rxqlen ∧ (setRxqbuf k v s).txqlen = s.txqlen
    ∧ (setRxqbuf k v s).txqcur = s.txqcur ∧ (setRxqbuf k v s).serr = s.serr
    ∧ (setRxqbuf k v s).rcbound = s.rcbound ∧ (setRxqbuf k v s).txbound = s.txbound
    ∧ (setRxqbuf k v s).res = s.res ∧ (setRxqbuf k v s).strobe = s.strobe ∧ (setRxqbuf k v s).cmds = s.cmds
    ∧ (setRxqbuf k v s).moves = s.moves ∧ (setRxqbuf k v s).uart = s.uart
    ∧ (setRxqbuf k v s).script = s.script ∧ (setRxqbuf k v s).draws = s.draws
    ∧ (setRxqbuf k v s).epoch = s.epoch := by
  simp [setRxqbuf]

@[simp] theorem setRxqbuf_sets (k : Nat) (v : Byte) (s : State) :
    (setRxqbuf k v s).mem = s.mem.write (rxBufAddr k) v := rfl

@[simp] theorem setTxqbuf_keeps (k : Nat) (v : Byte) (s : State) :
    (setTxqbuf k v s).cfg = s.cfg ∧ (setTxqbuf k v s).arg = s.arg ∧ (setTxqbuf k v s).ctx = s.ctx
    ∧ (setTxqbuf k v s).seq = s.seq ∧ (setTxqbuf k v s).procOwner = s.procOwner
    ∧ (setTxqbuf k v s).savedGie = s.savedGie ∧ (setTxqbuf k v s).ictl = s.ictl
    ∧ (setTxqbuf k v s).tickPending = s.tickPending ∧ (setTxqbuf k v s).stat = s.stat
    ∧ (setTxqbuf k v s).dir = s.dir ∧ (setTxqbuf k v s).ansel = s.ansel ∧ (setTxqbuf k v s).lat = s.lat
    ∧ (setTxqbuf k v s).route = s.route ∧ (setTxqbuf k v s).rxsel = s.rxsel
    ∧ (setTxqbuf k v s).tmrms = s.tmrms ∧ (setTxqbuf k v s).tmrus = s.tmrus ∧ (setTxqbuf k v s).tpre = s.tpre
    ∧ (setTxqbuf k v s).uctl = s.uctl ∧ (setTxqbuf k v s).brgl = s.brgl ∧ (setTxqbuf k v s).brgh = s.brgh
    ∧ (setTxqbuf k v s).rxqlen = s.rxqlen ∧ (setTxqbuf k v s).txqlen = s.txqlen
    ∧ (setTxqbuf k v s).txqcur = s.txqcur ∧ (setTxqbuf k v s).serr = s.serr
    ∧ (setTxqbuf k v s).rcbound = s.rcbound ∧ (setTxqbuf k v s).txbound = s.txbound
    ∧ (setTxqbuf k v s).res = s.res ∧ (setTxqbuf k v s).strobe = s.strobe ∧ (setTxqbuf k v s).cmds = s.cmds
    ∧ (setTxqbuf k v s).moves = s.moves ∧ (setTxqbuf k v s).uart = s.uart
    ∧ (setTxqbuf k v s).script = s.script ∧ (setTxqbuf k v s).draws = s.draws
    ∧ (setTxqbuf k v s).epoch = s.epoch := by
  simp [setTxqbuf]

@[simp] theorem setTxqbuf_sets (k : Nat) (v : Byte) (s : State) :
    (setTxqbuf k v s).mem = s.mem.write (txBufAddr k) v := rfl

@[simp] theorem clearRxqbuf_keeps (s : State) :
    (clearRxqbuf s).cfg = s.cfg ∧ (clearRxqbuf s).arg = s.arg ∧ (clearRxqbuf s).ctx = s.ctx
    ∧ (clearRxqbuf s).seq = s.seq ∧ (clearRxqbuf s).procOwner = s.procOwner
    ∧ (clearRxqbuf s).savedGie = s.savedGie ∧ (clearRxqbuf s).ictl = s.ictl
    ∧ (clearRxqbuf s).tickPending = s.tickPending ∧ (clearRxqbuf s).stat = s.stat
    ∧ (clearRxqbuf s).dir = s.dir ∧ (clearRxqbuf s).ansel = s.ansel ∧ (clearRxqbuf s).lat = s.lat
    ∧ (clearRxqbuf s).route = s.route ∧ (clearRxqbuf s).rxsel = s.rxsel ∧ (clearRxqbuf s).tmrms = s.tmrms
    ∧ (clearRxqbuf s).tmrus = s.tmrus ∧ (clearRxqbuf s).tpre = s.tpre ∧ (clearRxqbuf s).uctl = s.uctl
    ∧ (clearRxqbuf s).brgl = s.brgl ∧ (clearRxqbuf s).brgh = s.brgh ∧ (clearRxqbuf s).rxqlen = s.rxqlen
    ∧ (clearRxqbuf s).txqlen = s.txqlen ∧ (clearRxqbuf s).txqcur = s.txqcur ∧ (clearRxqbuf s).serr = s.serr
    ∧ (clearRxqbuf s).rcbound = s.rcbound ∧ (clearRxqbuf s).txbound = s.txbound ∧ (clearRxqbuf s).res = s.res
    ∧ (clearRxqbuf s).strobe = s.strobe ∧ (clearRxqbuf s).cmds = s.cmds ∧ (clearRxqbuf s).moves = s.moves
    ∧ (clearRxqbuf s).uart = s.uart ∧ (clearRxqbuf s).script = s.script ∧ (clearRxqbuf s).draws = s.draws
    ∧ (clearRxqbuf s).epoch = s.epoch := by
  simp [clearRxqbuf]

@[simp] theorem clearRxqbuf_sets (s : State) :
    (clearRxqbuf s).mem = s.mem.fill (rxBufAddr 0) s.cfg.rxCap 0 := rfl

@[simp] theorem interruptEntry_keeps (s : State) :
    (interruptEntry s).cfg = s.cfg ∧ (interruptEntry s).arg = s.arg
    ∧ (interruptEntry s).procOwner = s.procOwner ∧ (interruptEntry s).savedGie = s.savedGie
    ∧ (interruptEntry s).tickPending = s.tickPending ∧ (interruptEntry s).stat = s.stat
    ∧ (interruptEntry s).dir = s.dir ∧ (interruptEntry s).ansel = s.ansel ∧ (interruptEntry s).lat = s.lat
    ∧ (interruptEntry s).route = s.route ∧ (interruptEntry s).rxsel = s.rxsel
    ∧ (interruptEntry s).tmrms = s.tmrms ∧ (interruptEntry s).tmrus = s.tmrus
    ∧ (interruptEntry s).tpre = s.tpre ∧ (interruptEntry s).uctl = s.uctl ∧ (interruptEntry s).brgl = s.brgl
    ∧ (interruptEntry s).brgh = s.brgh ∧ (interruptEntry s).mem = s.mem
    ∧ (interruptEntry s).rxqlen = s.rxqlen ∧ (interruptEntry s).txqlen = s.txqlen
    ∧ (interruptEntry s).txqcur = s.txqcur ∧ (interruptEntry s).serr = s.serr
    ∧ (interruptEntry s).rcbound = s.rcbound ∧ (interruptEntry s).txbound = s.txbound
    ∧ (interruptEntry s).res = s.res ∧ (interruptEntry s).strobe = s.strobe
    ∧ (interruptEntry s).cmds = s.cmds ∧ (interruptEntry s).moves = s.moves
    ∧ (interruptEntry s).uart = s.uart ∧ (interruptEntry s).script = s.script
    ∧ (interruptEntry s).draws = s.draws ∧ (interruptEntry s).epoch = s.epoch := by
  simp [interruptEntry]

@[simp] theorem interruptEntry_sets (s : State) :
    (interruptEntry s).ictl = { s.ictl with gie := false } ∧ (interruptEntry s).ctx = .int
    ∧ (interruptEntry s).seq = .iTick := by
  simp [interruptEntry]

@[simp] theorem interruptReturn_keeps (s : State) :
    (interruptReturn s).cfg = s.cfg ∧ (interruptReturn s).arg = s.arg
    ∧ (interruptReturn s).procOwner = s.procOwner ∧ (interruptReturn s).savedGie = s.savedGie
    ∧ (interruptReturn s).tickPending = s.tickPending ∧ (interruptReturn s).stat = s.stat
    ∧ (interruptReturn s).dir = s.dir ∧ (interruptReturn s).ansel = s.ansel ∧ (interruptReturn s).lat = s.lat
    ∧ (interruptReturn s).route = s.route ∧ (interruptReturn s).rxsel = s.rxsel
    ∧ (interruptReturn s).tmrms = s.tmrms ∧ (interruptReturn s).tmrus = s.tmrus
    ∧ (interruptReturn s).tpre = s.tpre ∧ (interruptReturn s).uctl = s.uctl
    ∧ (interruptReturn s).brgl = s.brgl ∧ (interruptReturn s).brgh = s.brgh ∧ (interruptReturn s).mem = s.mem
    ∧ (interruptReturn s).rxqlen = s.rxqlen ∧ (interruptReturn s).txqlen = s.txqlen
    ∧ (interruptReturn s).txqcur = s.txqcur ∧ (interruptReturn s).serr = s.serr
    ∧ (interruptReturn s).rcbound = s.rcbound ∧ (interruptReturn s).txbound = s.txbound
    ∧ (interruptReturn s).res = s.res ∧ (interruptReturn s).strobe = s.strobe
    ∧ (interruptReturn s).cmds = s.cmds ∧ (interruptReturn s).moves = s.moves
    ∧ (interruptReturn s).uart = s.uart ∧ (interruptReturn s).script = s.script
    ∧ (interruptReturn s).draws = s.draws ∧ (interruptReturn s).epoch = s.epoch := by
  simp [interruptReturn]

@[simp] theorem interruptReturn_sets (s : State) :
    (interruptReturn s).ictl = { s.ictl with gie := true } ∧ (interruptReturn s).ctx = .bg
    ∧ (interruptReturn s).seq = .idle := by
  simp [interruptReturn]

@[simp] theorem beginStep_keeps (s : State) :
    (beginStep s).cfg = s.cfg ∧ (beginStep s).arg = s.arg ∧ (beginStep s).ctx = s.ctx
    ∧ (beginStep s).seq = s.seq ∧ (beginStep s).procOwner = s.procOwner ∧ (beginStep s).savedGie = s.savedGie
    ∧ (beginStep s).ictl = s.ictl ∧ (beginStep s).tickPending = s.tickPending ∧ (beginStep s).stat = s.stat
    ∧ (beginStep s).dir = s.dir ∧ (beginStep s).ansel = s.ansel ∧ (beginStep s).lat = s.lat
    ∧ (beginStep s).route = s.route ∧ (beginStep s).rxsel = s.rxsel ∧ (beginStep s).tmrms = s.tmrms
    ∧ (beginStep s).tmrus = s.tmrus ∧ (beginStep s).tpre = s.tpre ∧ (beginStep s).uctl = s.uctl
    ∧ (beginStep s).brgl = s.brgl ∧ (beginStep s).brgh = s.brgh ∧ (beginStep s).mem = s.mem
    ∧ (beginStep s).rxqlen = s.rxqlen ∧ (beginStep s).txqlen = s.txqlen ∧ (beginStep s).txqcur = s.txqcur
    ∧ (beginStep s).serr = s.serr ∧ (beginStep s).rcbound = s.rcbound ∧ (beginStep s).txbound = s.txbound
    ∧ (beginStep s).cmds = s.cmds ∧ (beginStep s).uart = s.uart ∧ (beginStep s).script = s.script
    ∧ (beginStep s).draws = s.draws ∧ (beginStep s).epoch = s.epoch := by
  simp [beginStep]

@[simp] theorem beginStep_sets (s : State) :
    (beginStep s).res = none ∧ (beginStep s).strobe = none ∧ (beginStep s).moves = s.moves.tail := by
  simp [beginStep]

@[simp] theorem timerTick_keeps (s : State) :
    (timerTick s).cfg = s.cfg ∧ (timerTick s).arg = s.arg ∧ (timerTick s).ctx = s.ctx
    ∧ (timerTick s).seq = s.seq ∧ (timerTick s).procOwner = s.procOwner ∧ (timerTick s).savedGie = s.savedGie
    ∧ (timerTick s).ictl = s.ictl ∧ (timerTick s).stat = s.stat ∧ (timerTick s).dir = s.dir
    ∧ (timerTick s).ansel = s.ansel ∧ (timerTick s).lat = s.lat ∧ (timerTick s).route = s.route
    ∧ (timerTick s).rxsel = s.rxsel ∧ (timerTick s).tpre = s.tpre ∧ (timerTick s).uctl = s.uctl
    ∧ (timerTick s).brgl = s.brgl ∧ (timerTick s).brgh = s.brgh ∧ (timerTick s).mem = s.mem
    ∧ (timerTick s).rxqlen = s.rxqlen ∧ (timerTick s).txqlen = s.txqlen ∧ (timerTick s).txqcur = s.txqcur
    ∧ (timerTick s).serr = s.serr ∧ (timerTick s).rcbound = s.rcbound ∧ (timerTick s).txbound = s.txbound
    ∧ (timerTick s).res = s.res ∧ (timerTick s).strobe = s.strobe ∧ (timerTick s).cmds = s.cmds
    ∧ (timerTick s).moves = s.moves ∧ (timerTick s).uart = s.uart ∧ (timerTick s).script = s.script
    ∧ (timerTick s).draws = s.draws ∧ (timerTick s).epoch = s.epoch := by
  simp [timerTick]

@[simp] theorem timerTick_sets (s : State) :
    (timerTick s).tickPending = false ∧ (timerTick s).tmrus = BitVec.ofNat 16 (tickAcc s % 1000)
    ∧ (timerTick s).tmrms = BitVec.ofNat 32 (s.tmrms.toNat + tickAcc s / 1000) := by
  simp [timerTick]

@[simp] theorem programTier_keeps (i : Nat) (s : State) :
    (programTier i s).cfg = s.cfg ∧ (programTier i s).arg = s.arg ∧ (programTier i s).ctx = s.ctx
    ∧ (programTier i s).seq = s.seq ∧ (programTier i s).procOwner = s.procOwner
    ∧ (programTier i s).savedGie = s.savedGie ∧ (programTier i s).ictl = s.ictl
    ∧ (programTier i s).tickPending = s.tickPending ∧ (programTier i s).stat = s.stat
    ∧ (programTier i s).dir = s.dir ∧ (programTier i s).ansel = s.ansel ∧ (programTier i s).lat = s.lat
    ∧ (programTier i s).route = s.route ∧ (programTier i s).rxsel = s.rxsel
    ∧ (programTier i s).tmrms = s.tmrms ∧ (programTier i s).tmrus = s.tmrus ∧ (programTier i s).tpre = s.tpre
    ∧ (programTier i s).brgl = s.brgl ∧ (programTier i s).brgh = s.brgh ∧ (programTier i s).mem = s.mem
    ∧ (programTier i s).rxqlen = s.rxqlen ∧ (programTier i s).txqlen = s.txqlen
    ∧ (programTier i s).txqcur = s.txqcur ∧ (programTier i s).serr = s.serr
    ∧ (programTier i s).rcbound = s.rcbound ∧ (programTier i s).txbound = s.txbound
    ∧ (programTier i s).res = s.res ∧ (programTier i s).strobe = s.strobe ∧ (programTier i s).cmds = s.cmds
    ∧ (programTier i s).moves = s.moves ∧ (programTier i s).uart = s.uart
    ∧ (programTier i s).script = s.script ∧ (programTier i s).draws = s.draws
    ∧ (programTier i s).epoch = s.epoch := by
  simp [programTier]

@[simp] theorem programTier_sets (i : Nat) (s : State) :
    (programTier i s).uctl = { s.uctl with tier := BitVec.ofNat 2 i } := rfl

@[simp] theorem programDivisor_keeps (d : Nat) (s : State) :
    (programDivisor d s).cfg = s.cfg ∧ (programDivisor d s).arg = s.arg ∧ (programDivisor d s).ctx = s.ctx
    ∧ (programDivisor d s).seq = s.seq ∧ (programDivisor d s).procOwner = s.procOwner
    ∧ (programDivisor d s).savedGie = s.savedGie ∧ (programDivisor d s).ictl = s.ictl
    ∧ (programDivisor d s).tickPending = s.tickPending ∧ (programDivisor d s).stat = s.stat
    ∧ (programDivisor d s).dir = s.dir ∧ (programDivisor d s).ansel = s.ansel
    ∧ (programDivisor d s).lat = s.lat ∧ (programDivisor d s).route = s.route
    ∧ (programDivisor d s).rxsel = s.rxsel ∧ (programDivisor d s).tmrms = s.tmrms
    ∧ (programDivisor d s).tmrus = s.tmrus ∧ (programDivisor d s).tpre = s.tpre
    ∧ (programDivisor d s).uctl = s.uctl ∧ (programDivisor d s).mem = s.mem
    ∧ (programDivisor d s).rxqlen = s.rxqlen ∧ (programDivisor d s).txqlen = s.txqlen
    ∧ (programDivisor d s).txqcur = s.txqcur ∧ (programDivisor d s).serr = s.serr
    ∧ (programDivisor d s).rcbound = s.rcbound ∧ (programDivisor d s).txbound = s.txbound
    ∧ (programDivisor d s).res = s.res ∧ (programDivisor d s).strobe = s.strobe
    ∧ (programDivisor d s).cmds = s.cmds ∧ (programDivisor d s).moves = s.moves
    ∧ (programDivisor d s).uart = s.uart ∧ (programDivisor d s).script = s.script
    ∧ (programDivisor d s).draws = s.draws ∧ (programDivisor d s).epoch = s.epoch := by
  simp [programDivisor]

@[simp] theorem programDivisor_sets (d : Nat) (s : State) :
    (programDivisor d s).brgl = BitVec.ofNat 8 d ∧ (programDivisor d s).brgh = BitVec.ofNat 8 (d / 256) := by
  simp [programDivisor]

@[simp] theorem programBrg_keeps (i d : Nat) (s : State) :
    (programBrg i d s).cfg = s.cfg ∧ (programBrg i d s).arg = s.arg ∧ (programBrg i d s).ctx = s.ctx
    ∧ (programBrg i d s).seq = s.seq ∧ (programBrg i d s).procOwner = s.procOwner
    ∧ (programBrg i d s).savedGie = s.savedGie ∧ (programBrg i d s).ictl = s.ictl
    ∧ (programBrg i d s).tickPending = s.tickPending ∧ (programBrg i d s).stat = s.stat
    ∧ (programBrg i d s).dir = s.dir ∧ (programBrg i d s).ansel = s.ansel ∧ (programBrg i d s).lat = s.lat
    ∧ (programBrg i d s).route = s.route ∧ (programBrg i d s).rxsel = s.rxsel
    ∧ (programBrg i d s).tmrms = s.tmrms ∧ (programBrg i d s).tmrus = s.tmrus
    ∧ (programBrg i d s).tpre = s.tpre ∧ (programBrg i d s).mem = s.mem
    ∧ (programBrg i d s).rxqlen = s.rxqlen ∧ (programBrg i d s).txqlen = s.txqlen
    ∧ (programBrg i d s).txqcur = s.txqcur ∧ (programBrg i d s).serr = s.serr
    ∧ (programBrg i d s).rcbound = s.rcbound ∧ (programBrg i d s).txbound = s.txbound
    ∧ (programBrg i d s).res = s.res ∧ (programBrg i d s).strobe = s.strobe
    ∧ (programBrg i d s).cmds = s.cmds ∧ (programBrg i d s).moves = s.moves
    ∧ (programBrg i d s).uart = s.uart ∧ (programBrg i d s).script = s.script
    ∧ (programBrg i d s).draws = s.draws ∧ (programBrg i d s).epoch = s.epoch := by
  simp [programBrg]

@[simp] theorem programBrg_sets (i d : Nat) (s : State) :
    (programBrg i d s).uctl = { s.uctl with tier := BitVec.ofNat 2 i }
    ∧ (programBrg i d s).brgl = BitVec.ofNat 8 d ∧ (programBrg i d s).brgh = BitVec.ofNat 8 (d / 256) := by
  simp [programBrg]

@[simp] theorem clearSerErr_keeps (s : State) :
    (clearSerErr s).cfg = s.cfg ∧ (clearSerErr s).arg = s.arg ∧ (clearSerErr s).ctx = s.ctx
    ∧ (clearSerErr s).seq = s.seq ∧ (clearSerErr s).procOwner = s.procOwner
    ∧ (clearSerErr s).savedGie = s.savedGie ∧ (clearSerErr s).ictl = s.ictl
    ∧ (clearSerErr s).tickPending = s.tickPending ∧ (clearSerErr s).stat = s.stat
    ∧ (clearSerErr s).dir = s.dir ∧ (clearSerErr s).ansel = s.ansel ∧ (clearSerErr s).lat = s.lat
    ∧ (clearSerErr s).route = s.route ∧ (clearSerErr s).rxsel = s.rxsel ∧ (clearSerErr s).tmrms = s.tmrms
    ∧ (clearSerErr s).tmrus = s.tmrus ∧ (clearSerErr s).tpre = s.tpre ∧ (clearSerErr s).uctl = s.uctl
    ∧ (clearSerErr s).brgl = s.brgl ∧ (clearSerErr s).brgh = s.brgh ∧ (clearSerErr s).mem = s.mem
    ∧ (clearSerErr s).rxqlen = s.rxqlen ∧ (clearSerErr s).txqlen = s.txqlen
    ∧ (clearSerErr s).txqcur = s.txqcur ∧ (clearSerErr s).rcbound = s.rcbound
    ∧ (clearSerErr s).txbound = s.txbound ∧ (clearSerErr s).res = s.res ∧ (clearSerErr s).strobe = s.strobe
    ∧ (clearSerErr s).cmds = s.cmds ∧ (clearSerErr s).moves = s.moves ∧ (clearSerErr s).uart = s.uart
    ∧ (clearSerErr s).script = s.script ∧ (clearSerErr s).draws = s.draws ∧ (clearSerErr s).epoch = s.epoch := by
  simp [clearSerErr]

@[simp] theorem clearSerErr_sets (s : State) :
    (clearSerErr s).serr = false := rfl

@[simp] theorem enableUart_keeps (s : State) :
    (enableUart s).cfg = s.cfg ∧ (enableUart s).arg = s.arg ∧ (enableUart s).ctx = s.ctx
    ∧ (enableUart s).seq = s.seq ∧ (enableUart s).procOwner = s.procOwner
    ∧ (enableUart s).savedGie = s.savedGie ∧ (enableUart s).ictl = s.ictl
    ∧ (enableUart s).tickPending = s.tickPending ∧ (enableUart s).stat = s.stat ∧ (enableUart s).dir = s.dir
    ∧ (enableUart s).ansel = s.ansel ∧ (enableUart s).lat = s.lat ∧ (enableUart s).route = s.route
    ∧ (enableUart s).rxsel = s.rxsel ∧ (enableUart s).tmrms = s.tmrms ∧ (enableUart s).tmrus = s.tmrus
    ∧ (enableUart s).tpre = s.tpre ∧ (enableUart s).brgl = s.brgl ∧ (enableUart s).brgh = s.brgh
    ∧ (enableUart s).mem = s.mem ∧ (enableUart s).rxqlen = s.rxqlen ∧ (enableUart s).txqlen = s.txqlen
    ∧ (enableUart s).txqcur = s.txqcur ∧ (enableUart s).serr = s.serr ∧ (enableUart s).rcbound = s.rcbound
    ∧ (enableUart s).txbound = s.txbound ∧ (enableUart s).res = s.res ∧ (enableUart s).strobe = s.strobe
    ∧ (enableUart s).cmds = s.cmds ∧ (enableUart s).moves = s.moves ∧ (enableUart s).uart = s.uart
    ∧ (enableUart s).script = s.script ∧ (enableUart s).draws = s.draws ∧ (enableUart s).epoch = s.epoch := by
  simp [enableUart]

@[simp] theorem enableUart_sets (s : State) :
    (enableUart s).uctl = { s.uctl with uartEn := true } := rfl

@[simp] theorem drawn_keeps (s : State) :
    (drawn s).cfg = s.cfg ∧ (drawn s).arg = s.arg ∧ (drawn s).ctx = s.ctx ∧ (drawn s).seq = s.seq
    ∧ (drawn s).procOwner = s.procOwner ∧ (drawn s).savedGie = s.savedGie ∧ (drawn s).ictl = s.ictl
    ∧ (drawn s).tickPending = s.tickPending ∧ (drawn s).stat = s.stat ∧ (drawn s).dir = s.dir
    ∧ (drawn s).ansel = s.ansel ∧ (drawn s).lat = s.lat ∧ (drawn s).route = s.route
    ∧ (drawn s).rxsel = s.rxsel ∧ (drawn s).tmrms = s.tmrms ∧ (drawn s).tmrus = s.tmrus
    ∧ (drawn s).tpre = s.tpre ∧ (drawn s).uctl = s.uctl ∧ (drawn s).brgl = s.brgl ∧ (drawn s).brgh = s.brgh
    ∧ (drawn s).mem = s.mem ∧ (drawn s).rxqlen = s.rxqlen ∧ (drawn s).txqlen = s.txqlen
    ∧ (drawn s).txqcur = s.txqcur ∧ (drawn s).serr = s.serr ∧ (drawn s).rcbound = s.rcbound
    ∧ (drawn s).txbound = s.txbound ∧ (drawn s).res = s.res ∧ (drawn s).strobe = s.strobe
    ∧ (drawn s).cmds = s.cmds ∧ (drawn s).moves = s.moves ∧ (drawn s).uart = s.uart
    ∧ (drawn s).epoch = s.epoch := by
  unfold drawn; split <;> simp_all

@[simp] theorem drawn_sets (s : State) :
    (drawn s).script = s.script.tail := by
  unfold drawn; split <;> simp_all

@[simp] theorem pinDirection_keeps (d : PinDescriptor) (out : Bool) (s : State) :
    (pinDirection d out s).cfg = s.cfg ∧ (pinDirection d out s).arg = s.arg
    ∧ (pinDirection d out s).ctx = s.ctx ∧ (pinDirection d out s).seq = s.seq
    ∧ (pinDirection d out s).procOwner = s.procOwner ∧ (pinDirection d out s).savedGie = s.savedGie
    ∧ (pinDirection d out s).ictl = s.ictl ∧ (pinDirection d out s).tickPending = s.tickPending
    ∧ (pinDirection d out s).stat = s.stat ∧ (pinDirection d out s).ansel = s.ansel
    ∧ (pinDirection d out s).lat = s.lat ∧ (pinDirection d out s).route = s.route
    ∧ (pinDirection d out s).rxsel = s.rxsel ∧ (pinDirection d out s).tmrms = s.tmrms
    ∧ (pinDirection d out s).tmrus = s.tmrus ∧ (pinDirection d out s).tpre = s.tpre
    ∧ (pinDirection d out s).uctl = s.uctl ∧ (pinDirection d out s).brgl = s.brgl
    ∧ (pinDirection d out s).brgh = s.brgh ∧ (pinDirection d out s).mem = s.mem
    ∧ (pinDirection d out s).rxqlen = s.rxqlen ∧ (pinDirection d out s).txqlen = s.txqlen
    ∧ (pinDirection d out s).txqcur = s.txqcur ∧ (pinDirection d out s).serr = s.serr
    ∧ (pinDirection d out s).rcbound = s.rcbound ∧ (pinDirection d out s).txbound = s.txbound
    ∧ (pinDirection d out s).res = s.res ∧ (pinDirection d out s).strobe = s.strobe
    ∧ (pinDirection d out s).cmds = s.cmds ∧ (pinDirection d out s).moves = s.moves
    ∧ (pinDirection d out s).uart = s.uart ∧ (pinDirection d out s).script = s.script
    ∧ (pinDirection d out s).draws = s.draws ∧ (pinDirection d out s).epoch = s.epoch := by
  unfold pinDirection; split <;> simp

@[simp] theorem pinLatch_keeps (d : PinDescriptor) (level : Bool) (s : State) :
    (pinLatch d level s).cfg = s.cfg ∧ (pinLatch d level s).arg = s.arg ∧ (pinLatch d level s).ctx = s.ctx
    ∧ (pinLatch d level s).seq = s.seq ∧ (pinLatch d level s).procOwner = s.procOwner
    ∧ (pinLatch d level s).savedGie = s.savedGie ∧ (pinLatch d level s).ictl = s.ictl
    ∧ (pinLatch d level s).tickPending = s.tickPending ∧ (pinLatch d level s).stat = s.stat
    ∧ (pinLatch d level s).dir = s.dir ∧ (pinLatch d level s).ansel = s.ansel
    ∧ (pinLatch d level s).route = s.route ∧ (pinLatch d level s).rxsel = s.rxsel
    ∧ (pinLatch d level s).tmrms = s.tmrms ∧ (pinLatch d level s).tmrus = s.tmrus
    ∧ (pinLatch d level s).tpre = s.tpre ∧ (pinLatch d level s).uctl = s.uctl
    ∧ (pinLatch d level s).brgl = s.brgl ∧ (pinLatch d level s).brgh = s.brgh
    ∧ (pinLatch d level s).mem = s.mem ∧ (pinLatch d level s).rxqlen = s.rxqlen
    ∧ (pinLatch d level s).txqlen = s.txqlen ∧ (pinLatch d level s).txqcur = s.txqcur
    ∧ (pinLatch d level s).serr = s.serr ∧ (pinLatch d level s).rcbound = s.rcbound
    ∧ (pinLatch d level s).txbound = s.txbound ∧ (pinLatch d level s).res = s.res
    ∧ (pinLatch d level s).strobe = s.strobe ∧ (pinLatch d level s).cmds = s.cmds
    ∧ (pinLatch d level s).moves = s.moves ∧ (pinLatch d level s).uart = s.uart
    ∧ (pinLatch d level s).script = s.script ∧ (pinLatch d level s).draws = s.draws
    ∧ (pinLatch d level s).epoch = s.epoch := by
  unfold pinLatch; split <;> simp

@[simp] theorem pinAnalog_keeps (d : PinDescriptor) (ana : Bool) (s : State) :
    (pinAnalog d ana s).cfg = s.cfg ∧ (pinAnalog d ana s).arg = s.arg ∧ (pinAnalog d ana s).ctx = s.ctx
    ∧ (pinAnalog d ana s).seq = s.seq ∧ (pinAnalog d ana s).procOwner = s.procOwner
    ∧ (pinAnalog d ana s).savedGie = s.savedGie ∧ (pinAnalog d ana s).ictl = s.ictl
    ∧ (pinAnalog d ana s).tickPending = s.tickPending ∧ (pinAnalog d ana s).stat = s.stat
    ∧ (pinAnalog d ana s).dir = s.dir ∧ (pinAnalog d ana s).lat = s.lat ∧ (pinAnalog d ana s).route = s.route
    ∧ (pinAnalog d ana s).rxsel = s.rxsel ∧ (pinAnalog d ana s).tmrms = s.tmrms
    ∧ (pinAnalog d ana s).tmrus = s.tmrus ∧ (pinAnalog d ana s).tpre = s.tpre
    ∧ (pinAnalog d ana s).uctl = s.uctl ∧ (pinAnalog d ana s).brgl = s.brgl
    ∧ (pinAnalog d ana s).brgh = s.brgh ∧ (pinAnalog d ana s).mem = s.mem
    ∧ (pinAnalog d ana s).rxqlen = s.rxqlen ∧ (pinAnalog d ana s).txqlen = s.txqlen
    ∧ (pinAnalog d ana s).txqcur = s.txqcur ∧ (pinAnalog d ana s).serr = s.serr
    ∧ (pinAnalog d ana s).rcbound = s.rcbound ∧ (pinAnalog d ana s).txbound = s.txbound
    ∧ (pinAnalog d ana s).res = s.res ∧ (pinAnalog d ana s).strobe = s.strobe
    ∧ (pinAnalog d ana s).cmds = s.cmds ∧ (pinAnalog d ana s).moves = s.moves
    ∧ (pinAnalog d ana s).uart = s.uart ∧ (pinAnalog d ana s).script = s.script
    ∧ (pinAnalog d ana s).draws = s.draws ∧ (pinAnalog d ana s).epoch = s.epoch := by
  unfold pinAnalog; split <;> simp

end Sys2Proof.Machine
end

