-- ==== Sys2Proof/Laws/SubSteps.lean ====
section
/-! SUPPORT. Sub-steps done in order within one block step: where they lead, the levels they pass, and what the two
bindings of SERINIT come to. -/

namespace Sys2Proof.Machine

@[simp] theorem inOrder_nil (s : State) : inOrder [] s = s := rfl

@[simp] theorem inOrder_cons (f : State → State) (fs : List (State → State)) (s : State) :
    inOrder (f :: fs) s = inOrder fs (f s) := rfl

@[simp] theorem inOrder_append (fs gs : List (State → State)) (s : State) :
    inOrder (fs ++ gs) s = inOrder gs (inOrder fs s) := by
  induction fs generalizing s with
  | nil => rfl
  | cons f fs ih => exact ih (f s)

@[simp] theorem levelsInOrder_nil (s : State) : levelsInOrder [] s = [] := rfl

@[simp] theorem levelsInOrder_cons (f : State → State) (fs : List (State → State)) (s : State) :
    levelsInOrder (f :: fs) s = outputs (f s) :: levelsInOrder fs (f s) := rfl

@[simp] theorem levelsInOrder_append (fs gs : List (State → State)) (s : State) :
    levelsInOrder (fs ++ gs) s = levelsInOrder fs s ++ levelsInOrder gs (inOrder fs s) := by
  induction fs generalizing s with
  | nil => rfl
  | cons f fs ih => simp [ih]

/-- `bind_rx` of a pin (R175). -/
theorem bindRx_of_pin {rc : PinId} {s : State} {i : Nat} {d : PinDescriptor} (h : pinOperand s.cfg rc = .pin i d) :
    bindRx rc s =
      { pinDirection d false (pinAnalog d false (clearRxqbuf { s with rcbound := rc, rxqlen := 0 })) with
        rxsel := d.af, uctl := { s.uctl with rxEn := true } } := by
  simp [bindRx, bindRxSteps, h]

/-- `bind_rx` of anything else (R175). -/
theorem bindRx_of_no_pin {rc : PinId} {s : State} (h : ∀ i d, pinOperand s.cfg rc ≠ .pin i d) :
    bindRx rc s = { s with rcbound := rc } := by
  unfold bindRx bindRxSteps
  split
  · rename_i i d hd; exact absurd hd (h i d)
  · rfl

/-- `bind_tx` of a pin with an output-routing register (R176). -/
theorem bindTx_of_routed {tx : PinId} {s : State} {i : Nat} {d : PinDescriptor} (h : pinOperand s.cfg tx = .pin i d)
    (hr : d.route = true) :
    bindTx tx s =
      { pinDirection d true (pinAnalog d false { s with txbound := tx }) with
        route := groupWrite s.route i s.cfg.txFuncCode, uctl := { s.uctl with txEn := true } } := by
  simp [bindTx, bindTxSteps, h, hr]

/-- `bind_tx` of anything else (R176). -/
theorem bindTx_of_not_routed {tx : PinId} {s : State} (h : ∀ i d, pinOperand s.cfg tx = .pin i d → d.route = false) :
    bindTx tx s = { s with txbound := nullPin } := by
  unfold bindTx bindTxSteps
  split
  · rename_i i d hd; simp [h i d hd]
  · rfl

end Sys2Proof.Machine
end

