-- ==== Sys2Proof/Laws/Frames.lean ====
section
/-! SUPPORT. The frame of each composite operation: `<operation>_keeps` lists every field it leaves alone, whatever
branch it takes. -/

namespace Sys2Proof.Machine

@[simp] theorem bindTx_keeps (tx : PinId) (s : State) :
    (bindTx tx s).cfg = s.cfg ∧ (bindTx tx s).arg = s.arg ∧ (bindTx tx s).ctx = s.ctx
    ∧ (bindTx tx s).seq = s.seq ∧ (bindTx tx s).procOwner = s.procOwner ∧ (bindTx tx s).savedGie = s.savedGie
    ∧ (bindTx tx s).ictl = s.ictl ∧ (bindTx tx s).tickPending = s.tickPending ∧ (bindTx tx s).stat = s.stat
    ∧ (bindTx tx s).lat = s.lat ∧ (bindTx tx s).rxsel = s.rxsel ∧ (bindTx tx s).tmrms = s.tmrms
    ∧ (bindTx tx s).tmrus = s.tmrus ∧ (bindTx tx s).tpre = s.tpre ∧ (bindTx tx s).brgl = s.brgl
    ∧ (bindTx tx s).brgh = s.brgh ∧ (bindTx tx s).mem = s.mem ∧ (bindTx tx s).rxqlen = s.rxqlen
    ∧ (bindTx tx s).txqlen = s.txqlen ∧ (bindTx tx s).txqcur = s.txqcur ∧ (bindTx tx s).serr = s.serr
    ∧ (bindTx tx s).rcbound = s.rcbound ∧ (bindTx tx s).res = s.res ∧ (bindTx tx s).strobe = s.strobe
    ∧ (bindTx tx s).cmds = s.cmds ∧ (bindTx tx s).moves = s.moves ∧ (bindTx tx s).uart = s.uart
    ∧ (bindTx tx s).script = s.script ∧ (bindTx tx s).draws = s.draws ∧ (bindTx tx s).epoch = s.epoch := by
  unfold bindTx bindTxSteps
  split
  · split <;> simp
  · simp

@[simp] theorem bindRx_keeps (rc : PinId) (s : State) :
    (bindRx rc s).cfg = s.cfg ∧ (bindRx rc s).arg = s.arg ∧ (bindRx rc s).ctx = s.ctx
    ∧ (bindRx rc s).seq = s.seq ∧ (bindRx rc s).procOwner = s.procOwner ∧ (bindRx rc s).savedGie = s.savedGie
    ∧ (bindRx rc s).ictl = s.ictl ∧ (bindRx rc s).tickPending = s.tickPending ∧ (bindRx rc s).stat = s.stat
    ∧ (bindRx rc s).lat = s.lat ∧ (bindRx rc s).route = s.route ∧ (bindRx rc s).tmrms = s.tmrms
    ∧ (bindRx rc s).tmrus = s.tmrus ∧ (bindRx rc s).tpre = s.tpre ∧ (bindRx rc s).brgl = s.brgl
    ∧ (bindRx rc s).brgh = s.brgh ∧ (bindRx rc s).txqlen = s.txqlen ∧ (bindRx rc s).txqcur = s.txqcur
    ∧ (bindRx rc s).serr = s.serr ∧ (bindRx rc s).txbound = s.txbound ∧ (bindRx rc s).res = s.res
    ∧ (bindRx rc s).strobe = s.strobe ∧ (bindRx rc s).cmds = s.cmds ∧ (bindRx rc s).moves = s.moves
    ∧ (bindRx rc s).uart = s.uart ∧ (bindRx rc s).script = s.script ∧ (bindRx rc s).draws = s.draws
    ∧ (bindRx rc s).epoch = s.epoch := by
  unfold bindRx bindRxSteps
  split <;> simp

/-- A successful SERINIT is its parts in order (R171). -/
theorem serialSetup_eq (i d : Nat) (rc tx : PinId) (s : State) :
    serialSetup i d rc tx s = enableUart (clearSerErr (bindTx tx (bindRx rc (programBrg i d s)))) := by
  have h : (bindRx rc (programBrg i d s)).cfg = s.cfg := by simp
  unfold bindTx
  rw [h]
  simp [serialSetup, serinitSteps, programBrg, bindRx]

@[simp] theorem serialSetup_keeps (i d : Nat) (rc tx : PinId) (s : State) :
    (serialSetup i d rc tx s).cfg = s.cfg ∧ (serialSetup i d rc tx s).arg = s.arg
    ∧ (serialSetup i d rc tx s).ctx = s.ctx ∧ (serialSetup i d rc tx s).seq = s.seq
    ∧ (serialSetup i d rc tx s).procOwner = s.procOwner ∧ (serialSetup i d rc tx s).savedGie = s.savedGie
    ∧ (serialSetup i d rc tx s).ictl = s.ictl ∧ (serialSetup i d rc tx s).tickPending = s.tickPending
    ∧ (serialSetup i d rc tx s).stat = s.stat ∧ (serialSetup i d rc tx s).lat = s.lat
    ∧ (serialSetup i d rc tx s).tmrms = s.tmrms ∧ (serialSetup i d rc tx s).tmrus = s.tmrus
    ∧ (serialSetup i d rc tx s).tpre = s.tpre ∧ (serialSetup i d rc tx s).txqlen = s.txqlen
    ∧ (serialSetup i d rc tx s).txqcur = s.txqcur ∧ (serialSetup i d rc tx s).res = s.res
    ∧ (serialSetup i d rc tx s).strobe = s.strobe ∧ (serialSetup i d rc tx s).cmds = s.cmds
    ∧ (serialSetup i d rc tx s).moves = s.moves ∧ (serialSetup i d rc tx s).uart = s.uart
    ∧ (serialSetup i d rc tx s).script = s.script ∧ (serialSetup i d rc tx s).draws = s.draws
    ∧ (serialSetup i d rc tx s).epoch = s.epoch := by
  simp [serialSetup_eq]

@[simp] theorem takeByte_keeps (e : RxEntry) (s : State) :
    (takeByte e s).cfg = s.cfg ∧ (takeByte e s).arg = s.arg ∧ (takeByte e s).ctx = s.ctx
    ∧ (takeByte e s).seq = s.seq ∧ (takeByte e s).procOwner = s.procOwner
    ∧ (takeByte e s).savedGie = s.savedGie ∧ (takeByte e s).ictl = s.ictl
    ∧ (takeByte e s).tickPending = s.tickPending ∧ (takeByte e s).stat = s.stat ∧ (takeByte e s).dir = s.dir
    ∧ (takeByte e s).ansel = s.ansel ∧ (takeByte e s).lat = s.lat ∧ (takeByte e s).route = s.route
    ∧ (takeByte e s).rxsel = s.rxsel ∧ (takeByte e s).tmrms = s.tmrms ∧ (takeByte e s).tmrus = s.tmrus
    ∧ (takeByte e s).tpre = s.tpre ∧ (takeByte e s).uctl = s.uctl ∧ (takeByte e s).brgl = s.brgl
    ∧ (takeByte e s).brgh = s.brgh ∧ (takeByte e s).txqlen = s.txqlen ∧ (takeByte e s).txqcur = s.txqcur
    ∧ (takeByte e s).rcbound = s.rcbound ∧ (takeByte e s).txbound = s.txbound ∧ (takeByte e s).res = s.res
    ∧ (takeByte e s).strobe = s.strobe ∧ (takeByte e s).cmds = s.cmds ∧ (takeByte e s).moves = s.moves
    ∧ (takeByte e s).uart = s.uart ∧ (takeByte e s).script = s.script ∧ (takeByte e s).draws = s.draws
    ∧ (takeByte e s).epoch = s.epoch := by
  unfold takeByte
  split
  · simp
  · split <;> simp

@[simp] theorem transmit_keeps (s : State) :
    (transmit s).cfg = s.cfg ∧ (transmit s).arg = s.arg ∧ (transmit s).ctx = s.ctx ∧ (transmit s).seq = s.seq
    ∧ (transmit s).procOwner = s.procOwner ∧ (transmit s).savedGie = s.savedGie ∧ (transmit s).ictl = s.ictl
    ∧ (transmit s).tickPending = s.tickPending ∧ (transmit s).stat = s.stat ∧ (transmit s).dir = s.dir
    ∧ (transmit s).ansel = s.ansel ∧ (transmit s).lat = s.lat ∧ (transmit s).route = s.route
    ∧ (transmit s).rxsel = s.rxsel ∧ (transmit s).tmrms = s.tmrms ∧ (transmit s).tmrus = s.tmrus
    ∧ (transmit s).tpre = s.tpre ∧ (transmit s).uctl = s.uctl ∧ (transmit s).brgl = s.brgl
    ∧ (transmit s).brgh = s.brgh ∧ (transmit s).mem = s.mem ∧ (transmit s).rxqlen = s.rxqlen
    ∧ (transmit s).txqlen = s.txqlen ∧ (transmit s).serr = s.serr ∧ (transmit s).rcbound = s.rcbound
    ∧ (transmit s).txbound = s.txbound ∧ (transmit s).res = s.res ∧ (transmit s).cmds = s.cmds
    ∧ (transmit s).moves = s.moves ∧ (transmit s).epoch = s.epoch := by
  unfold transmit
  split
  · simp only [envTxWrite_keeps]
    split <;> simp
  · simp

@[simp] theorem writeReg_keeps (s : State) (r : Reg) (v : Byte) :
    (writeReg s r v).cfg = s.cfg ∧ (writeReg s r v).ctx = s.ctx ∧ (writeReg s r v).seq = s.seq
    ∧ (writeReg s r v).procOwner = s.procOwner ∧ (writeReg s r v).savedGie = s.savedGie
    ∧ (writeReg s r v).tickPending = s.tickPending ∧ (writeReg s r v).stat = s.stat
    ∧ (writeReg s r v).dir = s.dir ∧ (writeReg s r v).ansel = s.ansel ∧ (writeReg s r v).lat = s.lat
    ∧ (writeReg s r v).route = s.route ∧ (writeReg s r v).rxsel = s.rxsel ∧ (writeReg s r v).tpre = s.tpre
    ∧ (writeReg s r v).uctl = s.uctl ∧ (writeReg s r v).brgl = s.brgl ∧ (writeReg s r v).brgh = s.brgh
    ∧ (writeReg s r v).rcbound = s.rcbound ∧ (writeReg s r v).txbound = s.txbound
    ∧ (writeReg s r v).res = s.res ∧ (writeReg s r v).strobe = s.strobe ∧ (writeReg s r v).cmds = s.cmds
    ∧ (writeReg s r v).moves = s.moves ∧ (writeReg s r v).uart = s.uart ∧ (writeReg s r v).script = s.script
    ∧ (writeReg s r v).draws = s.draws ∧ (writeReg s r v).epoch = s.epoch := by
  cases r <;> simp [writeReg]

@[simp] theorem afterRead_keeps (s : State) (r : Reg) :
    (afterRead s r).cfg = s.cfg ∧ (afterRead s r).arg = s.arg ∧ (afterRead s r).ctx = s.ctx
    ∧ (afterRead s r).seq = s.seq ∧ (afterRead s r).procOwner = s.procOwner
    ∧ (afterRead s r).savedGie = s.savedGie ∧ (afterRead s r).ictl = s.ictl
    ∧ (afterRead s r).tickPending = s.tickPending ∧ (afterRead s r).stat = s.stat
    ∧ (afterRead s r).dir = s.dir ∧ (afterRead s r).ansel = s.ansel ∧ (afterRead s r).lat = s.lat
    ∧ (afterRead s r).route = s.route ∧ (afterRead s r).rxsel = s.rxsel ∧ (afterRead s r).tmrms = s.tmrms
    ∧ (afterRead s r).tmrus = s.tmrus ∧ (afterRead s r).tpre = s.tpre ∧ (afterRead s r).uctl = s.uctl
    ∧ (afterRead s r).brgl = s.brgl ∧ (afterRead s r).brgh = s.brgh ∧ (afterRead s r).mem = s.mem
    ∧ (afterRead s r).rxqlen = s.rxqlen ∧ (afterRead s r).txqlen = s.txqlen
    ∧ (afterRead s r).txqcur = s.txqcur ∧ (afterRead s r).serr = s.serr ∧ (afterRead s r).rcbound = s.rcbound
    ∧ (afterRead s r).txbound = s.txbound ∧ (afterRead s r).res = s.res ∧ (afterRead s r).strobe = s.strobe
    ∧ (afterRead s r).cmds = s.cmds ∧ (afterRead s r).moves = s.moves ∧ (afterRead s r).uart = s.uart
    ∧ (afterRead s r).epoch = s.epoch := by
  unfold afterRead
  split <;> simp

@[simp] theorem afterPinRead_keeps (s : State) (d : PinDescriptor) :
    (afterPinRead s d).cfg = s.cfg ∧ (afterPinRead s d).arg = s.arg ∧ (afterPinRead s d).ctx = s.ctx
    ∧ (afterPinRead s d).seq = s.seq ∧ (afterPinRead s d).procOwner = s.procOwner
    ∧ (afterPinRead s d).savedGie = s.savedGie ∧ (afterPinRead s d).ictl = s.ictl
    ∧ (afterPinRead s d).tickPending = s.tickPending ∧ (afterPinRead s d).stat = s.stat
    ∧ (afterPinRead s d).dir = s.dir ∧ (afterPinRead s d).ansel = s.ansel ∧ (afterPinRead s d).lat = s.lat
    ∧ (afterPinRead s d).route = s.route ∧ (afterPinRead s d).rxsel = s.rxsel
    ∧ (afterPinRead s d).tmrms = s.tmrms ∧ (afterPinRead s d).tmrus = s.tmrus
    ∧ (afterPinRead s d).tpre = s.tpre ∧ (afterPinRead s d).uctl = s.uctl ∧ (afterPinRead s d).brgl = s.brgl
    ∧ (afterPinRead s d).brgh = s.brgh ∧ (afterPinRead s d).mem = s.mem
    ∧ (afterPinRead s d).rxqlen = s.rxqlen ∧ (afterPinRead s d).txqlen = s.txqlen
    ∧ (afterPinRead s d).txqcur = s.txqcur ∧ (afterPinRead s d).serr = s.serr
    ∧ (afterPinRead s d).rcbound = s.rcbound ∧ (afterPinRead s d).txbound = s.txbound
    ∧ (afterPinRead s d).res = s.res ∧ (afterPinRead s d).strobe = s.strobe
    ∧ (afterPinRead s d).cmds = s.cmds ∧ (afterPinRead s d).moves = s.moves
    ∧ (afterPinRead s d).uart = s.uart ∧ (afterPinRead s d).epoch = s.epoch := by
  unfold afterPinRead
  split <;> simp

@[simp] theorem tickStage_keeps (s : State) :
    (tickStage s).cfg = s.cfg ∧ (tickStage s).arg = s.arg ∧ (tickStage s).ctx = s.ctx
    ∧ (tickStage s).savedGie = s.savedGie ∧ (tickStage s).ictl = s.ictl ∧ (tickStage s).stat = s.stat
    ∧ (tickStage s).dir = s.dir ∧ (tickStage s).ansel = s.ansel ∧ (tickStage s).lat = s.lat
    ∧ (tickStage s).route = s.route ∧ (tickStage s).rxsel = s.rxsel ∧ (tickStage s).tpre = s.tpre
    ∧ (tickStage s).uctl = s.uctl ∧ (tickStage s).brgl = s.brgl ∧ (tickStage s).brgh = s.brgh
    ∧ (tickStage s).mem = s.mem ∧ (tickStage s).rxqlen = s.rxqlen ∧ (tickStage s).txqlen = s.txqlen
    ∧ (tickStage s).txqcur = s.txqcur ∧ (tickStage s).serr = s.serr ∧ (tickStage s).rcbound = s.rcbound
    ∧ (tickStage s).txbound = s.txbound ∧ (tickStage s).res = s.res ∧ (tickStage s).strobe = s.strobe
    ∧ (tickStage s).cmds = s.cmds ∧ (tickStage s).moves = s.moves ∧ (tickStage s).uart = s.uart
    ∧ (tickStage s).script = s.script ∧ (tickStage s).draws = s.draws ∧ (tickStage s).epoch = s.epoch := by
  unfold tickStage
  split <;> simp

@[simp] theorem microEnter_keeps (s : State) :
    (microEnter s).cfg = s.cfg ∧ (microEnter s).arg = s.arg ∧ (microEnter s).ctx = s.ctx
    ∧ (microEnter s).procOwner = s.procOwner ∧ (microEnter s).tickPending = s.tickPending
    ∧ (microEnter s).stat = s.stat ∧ (microEnter s).dir = s.dir ∧ (microEnter s).ansel = s.ansel
    ∧ (microEnter s).lat = s.lat ∧ (microEnter s).route = s.route ∧ (microEnter s).rxsel = s.rxsel
    ∧ (microEnter s).tmrms = s.tmrms ∧ (microEnter s).tmrus = s.tmrus ∧ (microEnter s).tpre = s.tpre
    ∧ (microEnter s).uctl = s.uctl ∧ (microEnter s).brgl = s.brgl ∧ (microEnter s).brgh = s.brgh
    ∧ (microEnter s).mem = s.mem ∧ (microEnter s).rxqlen = s.rxqlen ∧ (microEnter s).txqlen = s.txqlen
    ∧ (microEnter s).txqcur = s.txqcur ∧ (microEnter s).serr = s.serr ∧ (microEnter s).rcbound = s.rcbound
    ∧ (microEnter s).txbound = s.txbound ∧ (microEnter s).res = s.res ∧ (microEnter s).strobe = s.strobe
    ∧ (microEnter s).cmds = s.cmds ∧ (microEnter s).moves = s.moves ∧ (microEnter s).uart = s.uart
    ∧ (microEnter s).script = s.script ∧ (microEnter s).draws = s.draws ∧ (microEnter s).epoch = s.epoch := by
  simp [microEnter]

@[simp] theorem microRxchk_keeps (s : State) :
    (microRxchk s).cfg = s.cfg ∧ (microRxchk s).arg = s.arg ∧ (microRxchk s).ctx = s.ctx
    ∧ (microRxchk s).procOwner = s.procOwner ∧ (microRxchk s).savedGie = s.savedGie
    ∧ (microRxchk s).ictl = s.ictl ∧ (microRxchk s).tickPending = s.tickPending
    ∧ (microRxchk s).stat = s.stat ∧ (microRxchk s).dir = s.dir ∧ (microRxchk s).ansel = s.ansel
    ∧ (microRxchk s).lat = s.lat ∧ (microRxchk s).route = s.route ∧ (microRxchk s).rxsel = s.rxsel
    ∧ (microRxchk s).tmrms = s.tmrms ∧ (microRxchk s).tmrus = s.tmrus ∧ (microRxchk s).tpre = s.tpre
    ∧ (microRxchk s).brgl = s.brgl ∧ (microRxchk s).brgh = s.brgh ∧ (microRxchk s).mem = s.mem
    ∧ (microRxchk s).rxqlen = s.rxqlen ∧ (microRxchk s).txqlen = s.txqlen ∧ (microRxchk s).txqcur = s.txqcur
    ∧ (microRxchk s).rcbound = s.rcbound ∧ (microRxchk s).txbound = s.txbound ∧ (microRxchk s).res = s.res
    ∧ (microRxchk s).cmds = s.cmds ∧ (microRxchk s).moves = s.moves ∧ (microRxchk s).script = s.script
    ∧ (microRxchk s).draws = s.draws ∧ (microRxchk s).epoch = s.epoch := by
  unfold microRxchk
  split
  · simp
  · split <;> simp

@[simp] theorem microRxloop_keeps (s : State) :
    (microRxloop s).cfg = s.cfg ∧ (microRxloop s).arg = s.arg ∧ (microRxloop s).ctx = s.ctx
    ∧ (microRxloop s).procOwner = s.procOwner ∧ (microRxloop s).savedGie = s.savedGie
    ∧ (microRxloop s).ictl = s.ictl ∧ (microRxloop s).tickPending = s.tickPending
    ∧ (microRxloop s).stat = s.stat ∧ (microRxloop s).dir = s.dir ∧ (microRxloop s).ansel = s.ansel
    ∧ (microRxloop s).lat = s.lat ∧ (microRxloop s).route = s.route ∧ (microRxloop s).rxsel = s.rxsel
    ∧ (microRxloop s).tmrms = s.tmrms ∧ (microRxloop s).tmrus = s.tmrus ∧ (microRxloop s).tpre = s.tpre
    ∧ (microRxloop s).uctl = s.uctl ∧ (microRxloop s).brgl = s.brgl ∧ (microRxloop s).brgh = s.brgh
    ∧ (microRxloop s).txqlen = s.txqlen ∧ (microRxloop s).txqcur = s.txqcur
    ∧ (microRxloop s).rcbound = s.rcbound ∧ (microRxloop s).txbound = s.txbound ∧ (microRxloop s).res = s.res
    ∧ (microRxloop s).cmds = s.cmds ∧ (microRxloop s).moves = s.moves ∧ (microRxloop s).script = s.script
    ∧ (microRxloop s).draws = s.draws ∧ (microRxloop s).epoch = s.epoch := by
  unfold microRxloop
  split <;> simp

@[simp] theorem microTx_keeps (s : State) :
    (microTx s).cfg = s.cfg ∧ (microTx s).arg = s.arg ∧ (microTx s).ctx = s.ctx
    ∧ (microTx s).procOwner = s.procOwner ∧ (microTx s).savedGie = s.savedGie ∧ (microTx s).ictl = s.ictl
    ∧ (microTx s).tickPending = s.tickPending ∧ (microTx s).stat = s.stat ∧ (microTx s).dir = s.dir
    ∧ (microTx s).ansel = s.ansel ∧ (microTx s).lat = s.lat ∧ (microTx s).route = s.route
    ∧ (microTx s).rxsel = s.rxsel ∧ (microTx s).tmrms = s.tmrms ∧ (microTx s).tmrus = s.tmrus
    ∧ (microTx s).tpre = s.tpre ∧ (microTx s).uctl = s.uctl ∧ (microTx s).brgl = s.brgl
    ∧ (microTx s).brgh = s.brgh ∧ (microTx s).mem = s.mem ∧ (microTx s).rxqlen = s.rxqlen
    ∧ (microTx s).txqlen = s.txqlen ∧ (microTx s).serr = s.serr ∧ (microTx s).rcbound = s.rcbound
    ∧ (microTx s).txbound = s.txbound ∧ (microTx s).res = s.res ∧ (microTx s).cmds = s.cmds
    ∧ (microTx s).moves = s.moves ∧ (microTx s).epoch = s.epoch := by
  simp [microTx]

@[simp] theorem microExit_keeps (s : State) :
    (microExit s).cfg = s.cfg ∧ (microExit s).arg = s.arg ∧ (microExit s).ctx = s.ctx
    ∧ (microExit s).procOwner = s.procOwner ∧ (microExit s).savedGie = s.savedGie
    ∧ (microExit s).tickPending = s.tickPending ∧ (microExit s).stat = s.stat ∧ (microExit s).dir = s.dir
    ∧ (microExit s).ansel = s.ansel ∧ (microExit s).lat = s.lat ∧ (microExit s).route = s.route
    ∧ (microExit s).rxsel = s.rxsel ∧ (microExit s).tmrms = s.tmrms ∧ (microExit s).tmrus = s.tmrus
    ∧ (microExit s).tpre = s.tpre ∧ (microExit s).uctl = s.uctl ∧ (microExit s).brgl = s.brgl
    ∧ (microExit s).brgh = s.brgh ∧ (microExit s).mem = s.mem ∧ (microExit s).rxqlen = s.rxqlen
    ∧ (microExit s).txqlen = s.txqlen ∧ (microExit s).txqcur = s.txqcur ∧ (microExit s).serr = s.serr
    ∧ (microExit s).rcbound = s.rcbound ∧ (microExit s).txbound = s.txbound ∧ (microExit s).strobe = s.strobe
    ∧ (microExit s).cmds = s.cmds ∧ (microExit s).moves = s.moves ∧ (microExit s).uart = s.uart
    ∧ (microExit s).script = s.script ∧ (microExit s).draws = s.draws ∧ (microExit s).epoch = s.epoch := by
  unfold microExit
  cases h : s.procOwner <;> simp [h]

@[simp] theorem takeAll_keeps (es : List RxEntry) (s : State) :
    (takeAll es s).cfg = s.cfg ∧ (takeAll es s).arg = s.arg ∧ (takeAll es s).ctx = s.ctx
    ∧ (takeAll es s).seq = s.seq ∧ (takeAll es s).procOwner = s.procOwner
    ∧ (takeAll es s).savedGie = s.savedGie ∧ (takeAll es s).ictl = s.ictl
    ∧ (takeAll es s).tickPending = s.tickPending ∧ (takeAll es s).stat = s.stat ∧ (takeAll es s).dir = s.dir
    ∧ (takeAll es s).ansel = s.ansel ∧ (takeAll es s).lat = s.lat ∧ (takeAll es s).route = s.route
    ∧ (takeAll es s).rxsel = s.rxsel ∧ (takeAll es s).tmrms = s.tmrms ∧ (takeAll es s).tmrus = s.tmrus
    ∧ (takeAll es s).tpre = s.tpre ∧ (takeAll es s).uctl = s.uctl ∧ (takeAll es s).brgl = s.brgl
    ∧ (takeAll es s).brgh = s.brgh ∧ (takeAll es s).txqlen = s.txqlen ∧ (takeAll es s).txqcur = s.txqcur
    ∧ (takeAll es s).rcbound = s.rcbound ∧ (takeAll es s).txbound = s.txbound ∧ (takeAll es s).res = s.res
    ∧ (takeAll es s).strobe = s.strobe ∧ (takeAll es s).cmds = s.cmds ∧ (takeAll es s).moves = s.moves
    ∧ (takeAll es s).uart = s.uart ∧ (takeAll es s).script = s.script ∧ (takeAll es s).draws = s.draws
    ∧ (takeAll es s).epoch = s.epoch := by
  induction es generalizing s with
  | nil => simp [takeAll]
  | cons e es ih => simp [takeAll, ih]

@[simp] theorem receivePhase_keeps (s : State) :
    (receivePhase s).cfg = s.cfg ∧ (receivePhase s).arg = s.arg ∧ (receivePhase s).ctx = s.ctx
    ∧ (receivePhase s).seq = s.seq ∧ (receivePhase s).procOwner = s.procOwner
    ∧ (receivePhase s).savedGie = s.savedGie ∧ (receivePhase s).ictl = s.ictl
    ∧ (receivePhase s).tickPending = s.tickPending ∧ (receivePhase s).stat = s.stat
    ∧ (receivePhase s).dir = s.dir ∧ (receivePhase s).ansel = s.ansel ∧ (receivePhase s).lat = s.lat
    ∧ (receivePhase s).route = s.route ∧ (receivePhase s).rxsel = s.rxsel ∧ (receivePhase s).tmrms = s.tmrms
    ∧ (receivePhase s).tmrus = s.tmrus ∧ (receivePhase s).tpre = s.tpre ∧ (receivePhase s).brgl = s.brgl
    ∧ (receivePhase s).brgh = s.brgh ∧ (receivePhase s).txqlen = s.txqlen
    ∧ (receivePhase s).txqcur = s.txqcur ∧ (receivePhase s).rcbound = s.rcbound
    ∧ (receivePhase s).txbound = s.txbound ∧ (receivePhase s).res = s.res ∧ (receivePhase s).cmds = s.cmds
    ∧ (receivePhase s).moves = s.moves ∧ (receivePhase s).script = s.script
    ∧ (receivePhase s).draws = s.draws ∧ (receivePhase s).epoch = s.epoch := by
  unfold receivePhase
  split
  · simp
  · split <;> simp

/-- A step of the environment other than reset (R269, R272). -/
theorem envMove_keeps {m : Move} (hm : m ≠ .rst) (s : State) :
    (envMove m s).cfg = s.cfg ∧ (envMove m s).arg = s.arg ∧ (envMove m s).ctx = s.ctx
    ∧ (envMove m s).seq = s.seq ∧ (envMove m s).procOwner = s.procOwner ∧ (envMove m s).savedGie = s.savedGie
    ∧ (envMove m s).ictl = s.ictl ∧ (envMove m s).stat = s.stat ∧ (envMove m s).dir = s.dir
    ∧ (envMove m s).ansel = s.ansel ∧ (envMove m s).lat = s.lat ∧ (envMove m s).route = s.route
    ∧ (envMove m s).rxsel = s.rxsel ∧ (envMove m s).tmrms = s.tmrms ∧ (envMove m s).tmrus = s.tmrus
    ∧ (envMove m s).tpre = s.tpre ∧ (envMove m s).uctl = s.uctl ∧ (envMove m s).brgl = s.brgl
    ∧ (envMove m s).brgh = s.brgh ∧ (envMove m s).mem = s.mem ∧ (envMove m s).rxqlen = s.rxqlen
    ∧ (envMove m s).txqlen = s.txqlen ∧ (envMove m s).txqcur = s.txqcur ∧ (envMove m s).serr = s.serr
    ∧ (envMove m s).rcbound = s.rcbound ∧ (envMove m s).txbound = s.txbound ∧ (envMove m s).res = s.res
    ∧ (envMove m s).strobe = s.strobe ∧ (envMove m s).cmds = s.cmds ∧ (envMove m s).moves = s.moves
    ∧ (envMove m s).script = s.script ∧ (envMove m s).draws = s.draws ∧ (envMove m s).epoch = s.epoch := by
  cases m
  case rst => exact absurd rfl hm
  all_goals simp only [envMove, envTick, envArrive, envSent, envDeliver, envOverrun, envTxLevel]
  all_goals repeat' split
  all_goals simp

/-- What no command changes, whatever it is: SERPROC's own step does not either (R23, R205). -/
theorem exec_keeps {i : Instr} {s t : State} (h : exec i s = .next t) :
    t.cfg = s.cfg ∧ t.ctx = s.ctx ∧ t.savedGie = s.savedGie ∧ t.strobe = s.strobe ∧ t.cmds = s.cmds
    ∧ t.moves = s.moves ∧ t.uart = s.uart ∧ t.epoch = s.epoch := by
  cases i <;> simp only [exec, execNop, execPindir, execPinrd, execPinwr, execPinana, execTmrinit, execTmrtick,
    execSerinit, execSerproc, execCritent, execCritexit, execLdb, execStb] at h <;> injection h with h <;> subst h
  case serinit =>
    split
    · split <;> simp
    · simp
  all_goals try split
  all_goals simp

end Sys2Proof.Machine
end

