-- ==== Sys2Proof/Laws/Memory.lean ====
section
/-! SUPPORT. The laws of the buffer memory: a read after a write, and that every operation keeps the canonical form
and the addresses it holds. -/

namespace Sys2Proof.Machine

@[simp] theorem Memory.read_nil (a : Nat) : Memory.read [] a = none := rfl

theorem Memory.read_cons (c : Host.Cell) (m : Memory) (a : Nat) :
    Memory.read (c :: m) a = if c.1 = a then some c.2 else Memory.read m a := rfl

@[simp] theorem Memory.read_write_same (m : Memory) (a : Nat) (v : Byte) :
    Memory.read (Memory.write m a v) a = some v := by
  induction m with
  | nil => simp [Memory.write, Memory.read_cons]
  | cons c m ih =>
    unfold Memory.write
    split
    · rw [Memory.read_cons, if_neg (by omega), ih]
    · split <;> simp [Memory.read_cons]

theorem Memory.read_write_other (m : Memory) {a b : Nat} (v : Byte) (h : b ≠ a) :
    Memory.read (Memory.write m a v) b = Memory.read m b := by
  induction m with
  | nil => simp [Memory.write, Memory.read_cons, Ne.symm h]
  | cons c m ih =>
    unfold Memory.write
    split
    · rw [Memory.read_cons, Memory.read_cons, ih]
    · split
      · rename_i hc
        rw [Memory.read_cons, Memory.read_cons, if_neg (Ne.symm h), if_neg (by omega)]
      · rw [Memory.read_cons, if_neg (Ne.symm h)]

/-- A write adds no address but its own. -/
theorem Memory.mem_write {m : Memory} {a : Nat} {v : Byte} {c : Host.Cell} (h : c ∈ Memory.write m a v) :
    c = (a, v) ∨ c ∈ m := by
  induction m with
  | nil => simpa [Memory.write] using h
  | cons d m ih =>
    unfold Memory.write at h
    split at h
    · rcases List.mem_cons.mp h with h | h
      · exact .inr (by simp [h])
      · rcases ih h with h | h
        · exact .inl h
        · exact .inr (by simp [h])
    · split at h
      · rcases List.mem_cons.mp h with h | h
        · exact .inl h
        · exact .inr (by simp [h])
      · rcases List.mem_cons.mp h with h | h
        · exact .inl h
        · exact .inr h

theorem Memory.write_wf {m : Memory} (h : Memory.wf m) (a : Nat) (v : Byte) : Memory.wf (Memory.write m a v) := by
  induction m with
  | nil => simp [Memory.write, Memory.wf]
  | cons c m ih =>
    obtain ⟨hc, hm⟩ := List.pairwise_cons.mp h
    unfold Memory.write
    split
    · refine List.pairwise_cons.mpr ⟨fun d hd => ?_, ih hm⟩
      rcases Memory.mem_write hd with hd | hd
      · simpa [hd]
      · exact hc d hd
    · split
      · rename_i _ hca
        exact List.pairwise_cons.mpr ⟨fun d hd => by simpa [← hca] using hc d hd, hm⟩
      · refine List.pairwise_cons.mpr ⟨fun d hd => ?_, h⟩
        rcases List.mem_cons.mp hd with hd | hd
        · simp only [hd]; omega
        · have := hc d hd; simp only; omega

theorem Memory.fill_wf {m : Memory} (h : Memory.wf m) (a n : Nat) (v : Byte) : Memory.wf (Memory.fill m a n v) := by
  induction n with
  | zero => exact h
  | succ n ih => exact Memory.write_wf ih _ _

theorem Memory.mem_fill {m : Memory} {a n : Nat} {v : Byte} {c : Host.Cell} (h : c ∈ Memory.fill m a n v) :
    (∃ k < n, c = (a + k, v)) ∨ c ∈ m := by
  induction n with
  | zero => exact .inr h
  | succ n ih =>
    rcases Memory.mem_write h with h | h
    · exact .inl ⟨n, by omega, h⟩
    · rcases ih h with ⟨k, hk, h⟩ | h
      · exact .inl ⟨k, by omega, h⟩
      · exact .inr h

theorem Memory.read_fill (m : Memory) (a n : Nat) (v : Byte) (b : Nat) :
    Memory.read (Memory.fill m a n v) b = if a ≤ b ∧ b < a + n then some v else Memory.read m b := by
  induction n with
  | zero => rw [if_neg (by omega)]; rfl
  | succ n ih =>
    rw [Memory.fill]
    by_cases hb : b = a + n
    · subst hb; rw [Memory.read_write_same, if_pos (by omega)]
    · rw [Memory.read_write_other _ _ hb, ih]
      by_cases h : a ≤ b ∧ b < a + n
      · rw [if_pos h, if_pos (by omega)]
      · rw [if_neg h, if_neg (by omega)]

/-! ## The queue buffers -/

@[simp] theorem rxqbuf_setRxqbuf_same (k : Nat) (v : Byte) (s : State) : rxqbuf (setRxqbuf k v s) k = v := by
  simp [rxqbuf, bufferRead]

theorem rxqbuf_setRxqbuf_other {j k : Nat} (v : Byte) (s : State) (h : j ≠ k) :
    rxqbuf (setRxqbuf k v s) j = rxqbuf s j := by
  simp [rxqbuf, bufferRead, Memory.read_write_other, rxBufAddr, h]

@[simp] theorem txqbuf_setTxqbuf_same (k : Nat) (v : Byte) (s : State) : txqbuf (setTxqbuf k v s) k = v := by
  simp [txqbuf, bufferRead]

theorem txqbuf_setTxqbuf_other {j k : Nat} (v : Byte) (s : State) (h : j ≠ k) :
    txqbuf (setTxqbuf k v s) j = txqbuf s j := by
  simp [txqbuf, bufferRead, Memory.read_write_other, txBufAddr, h]

theorem rxqbuf_setTxqbuf {j k : Nat} (v : Byte) (s : State) (hj : j < 256) :
    rxqbuf (setTxqbuf k v s) j = rxqbuf s j := by
  have h : rxBufAddr j ≠ txBufAddr k := by simp only [rxBufAddr, txBufAddr]; omega
  simp [rxqbuf, bufferRead, Memory.read_write_other _ _ h]

theorem txqbuf_setRxqbuf {j k : Nat} (v : Byte) (s : State) (hk : k < 256) :
    txqbuf (setRxqbuf k v s) j = txqbuf s j := by
  have h : txBufAddr j ≠ rxBufAddr k := by simp only [rxBufAddr, txBufAddr]; omega
  simp [txqbuf, bufferRead, Memory.read_write_other _ _ h]

theorem rxqbuf_clearRxqbuf (s : State) (k : Nat) (h : k < s.cfg.rxCap) : rxqbuf (clearRxqbuf s) k = 0 := by
  simp [rxqbuf, bufferRead, Memory.read_fill, rxBufAddr, h]

/-- A buffer byte depends on the memory and on which reset it was left by, alone. -/
theorem bufferRead_congr {s t : State} (hm : t.mem = s.mem) (he : t.epoch = s.epoch) (a : Nat) :
    bufferRead t a = bufferRead s a := by
  simp [bufferRead, hm, he]

end Sys2Proof.Machine
end

