-- ==== Sys2Proof/Laws/PerInstr.lean ====
section
/-! SUPPORT. One statement about each instruction as syntax: its encoding is an instance of its row of the opcode
map, `(w & mask) = match` (R103). -/

namespace Sys2Proof.Laws.EncodedRow

/-- The instruction's word is an instance of its row (R103). -/
def Statement (i : Instr) : Prop := encode i &&& i.mnemonic.mask = i.mnemonic.matchWord

/-- An instruction whose operand bytes its row's mask takes away. -/
theorem of_fields {i : Instr} {m : Mnemonic} (hi : i.mnemonic = m) {a b c : Byte}
    (hw : encode i = packWord m.op a b c) (ma mb mc : Byte) (hm : m.mask = packWord 0xFF ma mb mc)
    (hr : m.matchWord = packWord m.op 0 0 0) (ha : a &&& ma = 0) (hb : b &&& mb = 0) (hc : c &&& mc = 0) :
    Statement i := by
  unfold Statement
  rw [hi, hw, hm, hr, packWord_and, ha, hb, hc]
  congr 1
  exact BitVec.and_allOnes

theorem flagByte_masked (f : Bool) : flagByte f &&& 0xFE = 0 := by cases f <;> decide

theorem addrHigh_masked (a : Addr) : addrHigh a &&& 0xF0 = 0 := by
  have key : ∀ n : BitVec 4, (0#4 ++ n : BitVec 8) &&& 0xF0 = 0 := by decide
  exact key _

theorem nop : Statement .nop :=
  of_fields (m := .nop) rfl rfl 0xFF 0xFF 0xFF (by decide) (by decide) (by simp) (by simp) (by simp)
theorem pindir (pin : PinId) (out : Bool) : Statement (.pindir pin out) :=
  of_fields (m := .pindir) rfl rfl 0x00 0xFF 0xFE (by decide) (by decide) (by simp) (by simp) (flagByte_masked out)
theorem pinrd (pin : PinId) : Statement (.pinrd pin) :=
  of_fields (m := .pinrd) rfl rfl 0x00 0xFF 0xFF (by decide) (by decide) (by simp) (by simp) (by simp)
theorem pinwr (pin : PinId) (level : Bool) : Statement (.pinwr pin level) :=
  of_fields (m := .pinwr) rfl rfl 0x00 0xFF 0xFE (by decide) (by decide) (by simp) (by simp) (flagByte_masked level)
theorem pinana (pin : PinId) (ana : Bool) : Statement (.pinana pin ana) :=
  of_fields (m := .pinana) rfl rfl 0x00 0xFF 0xFE (by decide) (by decide) (by simp) (by simp) (flagByte_masked ana)
theorem tmrinit : Statement .tmrinit :=
  of_fields (m := .tmrinit) rfl rfl 0xFF 0xFF 0xFF (by decide) (by decide) (by simp) (by simp) (by simp)
theorem tmrtick : Statement .tmrtick :=
  of_fields (m := .tmrtick) rfl rfl 0xFF 0xFF 0xFF (by decide) (by decide) (by simp) (by simp) (by simp)
theorem serinit (rc tx : PinId) : Statement (.serinit rc tx) :=
  of_fields (m := .serinit) rfl rfl 0x00 0x00 0xFF (by decide) (by decide) (by simp) (by simp) (by simp)
theorem serproc : Statement .serproc :=
  of_fields (m := .serproc) rfl rfl 0xFF 0xFF 0xFF (by decide) (by decide) (by simp) (by simp) (by simp)
theorem critent : Statement .critent :=
  of_fields (m := .critent) rfl rfl 0xFF 0xFF 0xFF (by decide) (by decide) (by simp) (by simp) (by simp)
theorem critexit (gie : Bool) : Statement (.critexit gie) :=
  of_fields (m := .critexit) rfl rfl 0xFF 0xFF 0xFE (by decide) (by decide) (by simp) (by simp) (flagByte_masked gie)
theorem ldb (addr : Addr) : Statement (.ldb addr) :=
  of_fields (m := .ldb) rfl rfl 0xF0 0x00 0xFF (by decide) (by decide) (addrHigh_masked addr) (by simp) (by simp)
theorem stb (addr : Addr) (data : Byte) : Statement (.stb addr data) :=
  of_fields (m := .stb) rfl rfl 0xF0 0x00 0x00 (by decide) (by decide) (addrHigh_masked addr) (by simp) (by simp)

end Sys2Proof.Laws.EncodedRow
end

