-- ==== Sys2Proof/Laws/RegisterSpace.lean ====
section
/-! SUPPORT. The address map both ways (R71, R72), the bytes of a wide register (R74), and what a write makes of a
later read (R76). -/

namespace Sys2Proof

/-- The address a register byte lies at (R71). -/
def Reg.addr : Reg → Nat
  | .ictl => 0x000
  | .iflg => 0x001
  | .uctl => 0x002
  | .usta => 0x003
  | .brgl => 0x004
  | .brgh => 0x005
  | .rxsel => 0x006
  | .tpre => 0x007
  | .stat => 0x008
  | .serr => 0x00C
  | .rxqlen => 0x00D
  | .txqlen => 0x00E
  | .txqcur => 0x00F
  | .tmrms k => 0x010 + k
  | .tmrus k => 0x014 + k
  | .rcbound => 0x016
  | .txbound => 0x017
  | .arg k => 0x018 + k
  | .cfgfreq k => 0x020 + k
  | .cfgdev k => 0x030 + k
  | .dir p => 0x040 + 4 * p
  | .portin p => 0x041 + 4 * p
  | .ansel p => 0x042 + 4 * p
  | .lat p => 0x043 + 4 * p
  | .route i => 0x080 + i
  | .rxqbuf k => 0x100 + k
  | .txqbuf k => 0x200 + k

/-- The register byte exists under a configuration (R71). -/
def Reg.within (c : Config) : Reg → Prop
  | .tmrms k | .arg k | .cfgfreq k => k < 4
  | .tmrus k => k < 2
  | .cfgdev k => k < 16
  | .dir p | .portin p | .ansel p | .lat p => p < c.nPorts
  | .route i => i < c.nPins ∧ c.hasRoute i = true
  | .rxqbuf k => k < c.rxCap
  | .txqbuf k => k < c.txCap
  | _ => True

theorem portReg_addr (j : Nat) : (portReg j).addr = 0x040 + j := by
  have hd := Nat.div_add_mod j 4
  obtain h | h | h | h : j % 4 = 0 ∨ j % 4 = 1 ∨ j % 4 = 2 ∨ j % 4 = 3 := by omega
  all_goals simp only [portReg, h, Reg.addr]; omega

theorem portReg_within (c : Config) (j : Nat) (h : j < 4 * c.nPorts) : (portReg j).within c := by
  unfold portReg
  split <;> simp only [Reg.within] <;> omega

/-- What a mapped address is: its register lies there, and exists. -/
theorem regAt_addr {c : Config} {a : Addr} {r : Reg} (h : regAt c a = some r) :
    a.toNat = r.addr ∧ r.within c := by
  unfold regAt at h
  obtain ⟨row, hrow, hr⟩ := Option.bind_eq_some_iff.mp h
  have hmem := List.mem_of_find?_eq_some hrow
  have hin := List.find?_some hrow
  simp only [Bool.and_eq_true, decide_eq_true_eq] at hin
  obtain ⟨hlo, hhi⟩ := hin
  obtain ⟨hx, hr⟩ := Option.filter_eq_some_iff.mp hr
  injection hx with hx
  subst hx
  simp only [addressMap, List.mem_cons, List.not_mem_nil, or_false] at hmem
  rcases hmem with rfl | rfl | rfl | rfl | rfl | rfl | rfl | rfl | rfl | rfl | rfl | rfl | rfl | rfl | rfl | rfl
    | rfl | rfl | rfl | rfl | rfl | rfl | rfl | rfl
  case inr.inr.inr.inr.inr.inr.inr.inr.inr.inr.inr.inr.inr.inr.inr.inr.inr.inr.inr.inr.inl =>
    simp only at hlo hhi ⊢
    rw [portReg_addr]
    exact ⟨by omega, portReg_within c _ (by omega)⟩
  all_goals
    simp only [Reg.addr, Reg.within, Config.regExists] at hlo hhi hr ⊢
    first
    | exact ⟨by omega, trivial⟩
    | (exact ⟨by omega, by omega⟩)
    | skip
  case inr.inr.inr.inr.inr.inr.inr.inr.inr.inr.inr.inr.inr.inr.inr.inr.inr.inr.inr.inr.inr.inl =>
    exact ⟨by omega, by omega, hr⟩

/-- Two addresses with the same register are one address. -/
theorem regAt_inj {c : Config} {a b : Addr} {r : Reg} (ha : regAt c a = some r) (hb : regAt c b = some r) :
    a = b :=
  BitVec.eq_of_toNat_eq ((regAt_addr ha).1.trans (regAt_addr hb).1.symm)

/-- The bounds of a configuration that the address map rests on (R8). -/
theorem Config.ok_bounds {c : Config} (h : c.ok = true) :
    c.fClk < 2 ^ 32 ∧ 1 ≤ c.nPorts ∧ c.nPorts ≤ 8 ∧ 1 ≤ c.nPins ∧ c.nPins ≤ 64 ∧ 1 ≤ c.rxCap ∧ c.rxCap ≤ 255
      ∧ 1 ≤ c.txCap ∧ c.txCap ≤ 255 ∧ c.deviceName.length = 16 := by
  simp only [Config.ok, decide_eq_true_eq] at h
  omega

/-- The rows of the map do not overlap. -/
theorem addressMap_disjoint {c : Config} (h : c.ok = true) :
    (addressMap c).Pairwise (fun x y => x.base + x.count ≤ y.base) := by
  have hb := Config.ok_bounds h
  simp only [addressMap, List.pairwise_cons, List.mem_cons, List.not_mem_nil, or_false, forall_eq_or_imp, forall_eq,
    List.Pairwise.nil, and_true, false_imp_iff, implies_true]
  omega

theorem find_row {l : List MapRow} (hl : l.Pairwise (fun x y => x.base + x.count ≤ y.base)) {row : MapRow}
    (hrow : row ∈ l) {n : Nat} (h : row.base ≤ n ∧ n < row.base + row.count) :
    l.find? (fun r => decide (r.base ≤ n) && decide (n < r.base + r.count)) = some row := by
  induction l with
  | nil => cases hrow
  | cons x xs ih =>
    obtain ⟨hx, hxs⟩ := List.pairwise_cons.mp hl
    rcases List.mem_cons.mp hrow with rfl | hm
    · simp [h.1, h.2]
    · have := hx row hm
      have hn : ¬ n < x.base + x.count := by omega
      simp [hn, ih hxs hm]

/-- An address inside a row of the map names that row's register, if the register exists. -/
theorem regAt_of_row {c : Config} (hc : c.ok = true) {row : MapRow} (hrow : row ∈ addressMap c) {a : Addr}
    (h : row.base ≤ a.toNat ∧ a.toNat < row.base + row.count) :
    regAt c a = (some (row.reg (a.toNat - row.base))).filter c.regExists := by
  unfold regAt
  rw [find_row (addressMap_disjoint hc) hrow h]
  rfl

/-- Every register that exists lies at its address (R71). -/
theorem regAt_of_within {c : Config} (hc : c.ok = true) {r : Reg} (hr : r.within c) {a : Addr}
    (ha : a.toNat = r.addr) : regAt c a = some r := by
  have hb := Config.ok_bounds hc
  cases r
  case dir p =>
    simp only [Reg.within, Reg.addr] at hr ha
    rw [regAt_of_row hc (row := ⟨0x040, 4 * c.nPorts, portReg⟩) (by simp [addressMap]) (by simp only; omega)]
    simp [ha, portReg, Config.regExists]
  case portin p =>
    simp only [Reg.within, Reg.addr] at hr ha
    rw [regAt_of_row hc (row := ⟨0x040, 4 * c.nPorts, portReg⟩) (by simp [addressMap]) (by simp only; omega)]
    simp [ha, portReg, Config.regExists, show 65 + 4 * p - 64 = 4 * p + 1 by omega, Nat.add_mod,
      show (4 * p + 1) / 4 = p by omega]
  case ansel p =>
    simp only [Reg.within, Reg.addr] at hr ha
    rw [regAt_of_row hc (row := ⟨0x040, 4 * c.nPorts, portReg⟩) (by simp [addressMap]) (by simp only; omega)]
    simp [ha, portReg, Config.regExists, show 66 + 4 * p - 64 = 4 * p + 2 by omega, Nat.add_mod,
      show (4 * p + 2) / 4 = p by omega]
  case lat p =>
    simp only [Reg.within, Reg.addr] at hr ha
    rw [regAt_of_row hc (row := ⟨0x040, 4 * c.nPorts, portReg⟩) (by simp [addressMap]) (by simp only; omega)]
    simp [ha, portReg, Config.regExists, show 67 + 4 * p - 64 = 4 * p + 3 by omega, Nat.add_mod,
      show (4 * p + 3) / 4 = p by omega]
  case route i =>
    simp only [Reg.within, Reg.addr] at hr ha
    rw [regAt_of_row hc (row := ⟨0x080, c.nPins, .route⟩) (by simp [addressMap]) (by simp only; omega)]
    simp [ha, Config.regExists, hr.2]
  case tmrms k =>
    simp only [Reg.within, Reg.addr] at hr ha
    rw [regAt_of_row hc (row := ⟨0x010, 4, .tmrms⟩) (by simp [addressMap]) (by simp only; omega)]
    simp [ha, Config.regExists]
  case tmrus k =>
    simp only [Reg.within, Reg.addr] at hr ha
    rw [regAt_of_row hc (row := ⟨0x014, 2, .tmrus⟩) (by simp [addressMap]) (by simp only; omega)]
    simp [ha, Config.regExists]
  case arg k =>
    simp only [Reg.within, Reg.addr] at hr ha
    rw [regAt_of_row hc (row := ⟨0x018, 4, .arg⟩) (by simp [addressMap]) (by simp only; omega)]
    simp [ha, Config.regExists]
  case cfgfreq k =>
    simp only [Reg.within, Reg.addr] at hr ha
    rw [regAt_of_row hc (row := ⟨0x020, 4, .cfgfreq⟩) (by simp [addressMap]) (by simp only; omega)]
    simp [ha, Config.regExists]
  case cfgdev k =>
    simp only [Reg.within, Reg.addr] at hr ha
    rw [regAt_of_row hc (row := ⟨0x030, 16, .cfgdev⟩) (by simp [addressMap]) (by simp only; omega)]
    simp [ha, Config.regExists]
  case rxqbuf k =>
    simp only [Reg.within, Reg.addr] at hr ha
    rw [regAt_of_row hc (row := ⟨0x100, c.rxCap, .rxqbuf⟩) (by simp [addressMap]) (by simp only; omega)]
    simp [ha, Config.regExists]
  case txqbuf k =>
    simp only [Reg.within, Reg.addr] at hr ha
    rw [regAt_of_row hc (row := ⟨0x200, c.txCap, .txqbuf⟩) (by simp [addressMap]) (by simp only; omega)]
    simp [ha, Config.regExists]
  all_goals
    simp only [Reg.addr] at ha
    rw [show a = BitVec.ofNat 12 a.toNat by simp, ha]
    rfl

namespace Machine

/-! ## Bytes of a wide register -/

theorem getLsbD_byteOf {n : Nat} (w : BitVec n) (j i : Nat) (hi : i < 8) :
    (byteOf w j).getLsbD i = w.getLsbD (8 * j + i) := by
  simp [byteOf, hi]

theorem getLsbD_setByteOf {n : Nat} (w : BitVec n) (k : Nat) (v : Byte) (p : Nat) (hp : p < n) :
    (setByteOf w k v).getLsbD p =
      if 8 * k ≤ p ∧ p < 8 * k + 8 then v.getLsbD (p - 8 * k) else w.getLsbD p := by
  have ones : ∀ q, (255#8).getLsbD q = decide (q < 8) := by
    intro q
    by_cases hq : q < 8
    · have key : ∀ q : Fin 8, (255#8).getLsbD q.1 = true := by decide
      simp [hq, key ⟨q, hq⟩]
    · simp [hq, BitVec.getLsbD_of_ge (255#8) q (by omega)]
  simp only [setByteOf, BitVec.getLsbD_or, BitVec.getLsbD_and, BitVec.getLsbD_not, BitVec.getLsbD_shiftLeft,
    BitVec.getLsbD_setWidth, ones, hp]
  by_cases hlo : p < 8 * k
  · simp [hlo]
  · by_cases hhi : p < 8 * k + 8
    · simp [hlo, hhi, show 8 * k ≤ p by omega, show p - 8 * k < 8 by omega, show p - 8 * k < n by omega]
    · simp [hlo, hhi, show ¬ p - 8 * k < 8 by omega, BitVec.getLsbD_of_ge v (p - 8 * k) (by omega)]

theorem byteOf_setByteOf_same {n : Nat} (w : BitVec n) (k : Nat) (v : Byte) (hk : 8 * k + 8 ≤ n) :
    byteOf (setByteOf w k v) k = v := by
  apply BitVec.eq_of_getLsbD_eq
  intro i hi
  rw [getLsbD_byteOf _ _ _ hi, getLsbD_setByteOf _ _ _ _ (by omega), if_pos (by omega)]
  congr 1; omega

theorem byteOf_setByteOf_other {n : Nat} (w : BitVec n) {j k : Nat} (v : Byte) (hj : 8 * j + 8 ≤ n)
    (h : j ≠ k) : byteOf (setByteOf w k v) j = byteOf w j := by
  apply BitVec.eq_of_getLsbD_eq
  intro i hi
  rw [getLsbD_byteOf _ _ _ hi, getLsbD_byteOf _ _ _ hi, getLsbD_setByteOf _ _ _ _ (by omega), if_neg (by omega)]

/-! ## Reading after writing -/

@[simp] theorem writeReg_cfg (s : State) (r : Reg) (v : Byte) : (writeReg s r v).cfg = s.cfg := by
  cases r <;> simp [writeReg]

theorem readReg_complete (r : Word) (s : State) (q : Reg) : readReg (complete r s) q = readReg s q := by
  cases q <;> rfl

/-- The part of the state a register's byte is computed from is the same in two states (R75). -/
def agreeOn (s t : State) : Reg → Prop
  | .ictl => t.ictl = s.ictl
  | .iflg => t.tickPending = s.tickPending ∧ t.uart = s.uart ∧ txReady t = txReady s
  | .uctl => t.uctl = s.uctl
  | .usta => t.uart = s.uart ∧ (ferrOpen s = true → nextDraw t = nextDraw s)
  | .brgl => t.brgl = s.brgl
  | .brgh => t.brgh = s.brgh
  | .rxsel => t.rxsel = s.rxsel
  | .tpre => t.tpre = s.tpre
  | .stat => t.stat = s.stat
  | .serr => t.serr = s.serr
  | .rxqlen => t.rxqlen = s.rxqlen
  | .txqlen => t.txqlen = s.txqlen
  | .txqcur => t.txqcur = s.txqcur
  | .tmrms k => byteOf t.tmrms k = byteOf s.tmrms k
  | .tmrus k => byteOf t.tmrus k = byteOf s.tmrus k
  | .rcbound => t.rcbound = s.rcbound
  | .txbound => t.txbound = s.txbound
  | .arg k => byteOf t.arg k = byteOf s.arg k
  | .cfgfreq _ | .cfgdev _ => True
  | .dir _ => t.dir = s.dir
  | .portin _ => nextDraw t = nextDraw s
  | .ansel _ => t.ansel = s.ansel
  | .lat _ => t.lat = s.lat
  | .route _ => t.route = s.route
  | .rxqbuf k => rxqbuf t k = rxqbuf s k
  | .txqbuf k => txqbuf t k = txqbuf s k

theorem readReg_of_agreeOn {s t : State} (hc : t.cfg = s.cfg) {r : Reg} (h : agreeOn s t r) : readReg t r = readReg s r := by
  cases r <;> simp only [agreeOn] at h <;> simp only [readReg, h, hc]
  case iflg => simp only [iflgByte, rxReady, h]
  case usta =>
    obtain ⟨hu, hd⟩ := h
    simp only [ustaByte, ferr, oerr, hu, hc]
    congr 3
    cases hr : s.uart.rxf with
    | cons e es => rfl
    | nil =>
      cases he : s.cfg.uartEnv with
      | reference => rfl
      | contract => simp only [hd (by simp [ferrOpen, rxReady, hr, he])]
  case serr => simp only [serrByte, h]

/-- A frame of the register space follows from the fields a register's byte is computed from. -/
theorem keepsBytesBut_of_agreeOn {f : Reg → Bool} {s t : State} (hc : t.cfg = s.cfg)
    (h : ∀ r, r.within s.cfg → f r = false → readDraws s r = false → agreeOn s t r) : keepsBytesBut f s t := by
  intro a r hr hd hf
  simp only [byteAt, hc, hr, Option.map_some, readReg_of_agreeOn hc (h r (regAt_addr hr).2 hf hd)]

end Machine
end Sys2Proof
end

