-- ==== Sys2Proof/Laws/Step.lean ====
section
/-! SUPPORT. What a step can do, said once: the turn, the boundary, acceptance, and the inversion lemma of a step. -/

namespace Sys2Proof.Machine

/-- Executing an instruction always gives a next state: no meaning faults or refuses (R240). -/
theorem exec_isNext (i : Instr) (s : State) : ∃ t, exec i s = .next t := by
  cases i <;> exact ⟨_, rfl⟩

theorem step_of_ok {s : State} (h : s.cfg.ok = true) : step s = agentStep s := by simp [step, h]

theorem step_of_not_ok {s : State} (h : s.cfg.ok = false) : step s = .refused .notAConfiguration := by
  simp [step, h]

/-- A step that answers a next state ran under parameters that are a configuration. -/
theorem ok_of_step {s t : State} (h : step s = .next t) : s.cfg.ok = true := by
  by_contra hc
  rw [step_of_not_ok (by simpa using hc)] at h
  cases h

theorem blockMoves_iff {s : State} : blockMoves s = true ↔ s.moves = [] ∨ ∃ ms, s.moves = .block :: ms := by
  unfold blockMoves
  cases hm : s.moves with
  | nil => simp
  | cons m ms => simp

theorem agentStep_block {s : State} (h : blockMoves s = true) : agentStep s = blockStep (beginStep s) := by
  unfold agentStep
  rcases blockMoves_iff.mp h with h | ⟨ms, h⟩ <;> simp [h]

theorem step_block {s : State} (ho : s.cfg.ok = true) (h : blockMoves s = true) :
    step s = blockStep (beginStep s) := by
  rw [step_of_ok ho, agentStep_block h]

theorem step_env {s : State} {m : Move} {ms : List Move} (ho : s.cfg.ok = true) (hs : s.moves = m :: ms)
    (hm : m ≠ .block) : step s = .next (envMove m (beginStep s)) := by
  rw [step_of_ok ho]
  unfold agentStep
  rw [hs]
  cases m <;> simp_all

@[simp] theorem rxReady_beginStep (s : State) : rxReady (beginStep s) = rxReady s := rfl
@[simp] theorem oerr_beginStep (s : State) : oerr (beginStep s) = oerr s := rfl
@[simp] theorem txReady_beginStep (s : State) : txReady (beginStep s) = txReady s := rfl
@[simp] theorem irq_beginStep (s : State) : irq (beginStep s) = irq s := rfl
@[simp] theorem nextDraw_beginStep (s : State) : nextDraw (beginStep s) = nextDraw s := rfl

theorem portOpen_iff {s : State} : portOpen s = true ↔ s.seq = .idle ∧ s.ctx = .bg ∧ irq s = false := by
  simp [portOpen, atBoundary, and_assoc]

theorem blockStep_portOpen {s : State} (h : portOpen s = true) : blockStep s = acceptCommand s := by
  obtain ⟨hs, hc, hi⟩ := portOpen_iff.mp h
  simp [blockStep, boundary, hs, hc, hi]

theorem blockStep_irq {s : State} (hs : s.seq = .idle) (hc : s.ctx = .bg) (hi : irq s = true) :
    blockStep s = .next (interruptEntry s) := by
  simp [blockStep, boundary, hs, hc, hi]

/-- Acceptance of a word, legal or not. -/
theorem step_accepts {s : State} {w : Word} {rest : List Word} (h : accepts s w rest) :
    step s = match decode w with
      | .error c => .next (dropCommand c (accepted s rest))
      | .ok i => exec i (accepted s rest) := by
  obtain ⟨ho, hb, hp, hc⟩ := h
  rw [step_block ho hb, blockStep_portOpen (by simpa [portOpen, atBoundary] using hp), acceptCommand]
  simp only [beginStep_keeps, hc]
  rfl

/-- What a block step that answers t does. -/
inductive BlockCase (s t : State) : Prop where
  /-- a boundary with nothing to present -/
  | rest (hs : s.seq = .idle) (hc : s.ctx = .bg) (hi : irq s = false) (hw : s.cmds = []) (ht : t = s)
  /-- a boundary where an illegal word is dropped -/
  | drop (w : Word) (ws : List Word) (c : Cause) (hs : s.seq = .idle) (hc : s.ctx = .bg) (hi : irq s = false)
      (hw : s.cmds = w :: ws) (hd : decode w = .error c) (ht : t = dropCommand c { s with cmds := ws })
  /-- a boundary where a command executes -/
  | run (w : Word) (ws : List Word) (i : Instr) (hs : s.seq = .idle) (hc : s.ctx = .bg) (hi : irq s = false)
      (hw : s.cmds = w :: ws) (hd : decode w = .ok i) (ht : exec i { s with cmds := ws } = .next t)
  /-- a boundary where the interrupt is taken -/
  | enter (hs : s.seq = .idle) (hc : s.ctx = .bg) (hi : irq s = true) (ht : t = interruptEntry s)
  | tick (hs : s.seq = .iTick) (ht : t = tickStage s)
  | pEnter (hs : s.seq = .pEnter) (ht : t = microEnter s)
  | pRxchk (hs : s.seq = .pRxchk) (ht : t = microRxchk s)
  | pRxloop (hs : s.seq = .pRxloop) (ht : t = microRxloop s)
  | pTx (hs : s.seq = .pTx) (ht : t = microTx s)
  | pExit (hs : s.seq = .pExit) (ht : t = microExit s)
  | ret (hs : s.seq = .iRet) (ht : t = interruptReturn s)

theorem blockStep_cases {s t : State} (h : blockStep s = .next t) : BlockCase s t := by
  unfold blockStep at h
  cases hs : s.seq <;> rw [hs] at h <;> simp only at h
  case iTick => exact .tick hs (by injection h with h; exact h.symm)
  case pEnter => exact .pEnter hs (by injection h with h; exact h.symm)
  case pRxchk => exact .pRxchk hs (by injection h with h; exact h.symm)
  case pRxloop => exact .pRxloop hs (by injection h with h; exact h.symm)
  case pTx => exact .pTx hs (by injection h with h; exact h.symm)
  case pExit => exact .pExit hs (by injection h with h; exact h.symm)
  case iRet => exact .ret hs (by injection h with h; exact h.symm)
  case idle =>
    cases hc : s.ctx <;> rw [hc] at h <;> simp only [boundary] at h
    case int => cases h
    case bg =>
      split at h
      · rename_i hi
        exact .enter hs hc hi (by injection h with h; exact h.symm)
      · rename_i hi
        have hi : irq s = false := by simpa using hi
        unfold acceptCommand at h
        split at h
        · rename_i hw
          exact .rest hs hc hi hw (by injection h with h; exact h.symm)
        · rename_i w ws hw
          split at h
          · rename_i c hd
            exact .drop w ws c hs hc hi hw hd (by injection h with h; exact h.symm)
          · rename_i i hd
            exact .run w ws i hs hc hi hw hd h

/-- The inversion lemma of a step: an environment move, or one of the block's cases. -/
theorem step_cases {s t : State} (h : step s = .next t) :
    (∃ m ms, s.moves = m :: ms ∧ m ≠ .block ∧ t = envMove m (beginStep s))
      ∨ (blockMoves s = true ∧ BlockCase (beginStep s) t) := by
  have ho := ok_of_step h
  by_cases hb : blockMoves s = true
  · exact .inr ⟨hb, blockStep_cases (by rw [step_block ho hb] at h; exact h)⟩
  · left
    cases hm : s.moves with
    | nil => exact absurd (blockMoves_iff.mpr (.inl hm)) hb
    | cons m ms =>
      have hne : m ≠ .block := fun he => hb (blockMoves_iff.mpr (.inr ⟨ms, by rw [hm, he]⟩))
      rw [step_env ho hm hne] at h
      injection h with h
      exact ⟨m, ms, rfl, hne, h.symm⟩

end Sys2Proof.Machine
end

