-- ==== Sys2Proof/Machine/Assembler.lean ====
section
/-! DEFINITION. The assembler syntax (spec/30_encoding.md R112) and the pseudo-instructions in it (R113): from a line
of text to the command words the host presents. The block has no part in it. -/

namespace Sys2Proof.Machine

/-- A text, letter by letter. -/
abbrev Text := List Char

/-- What the text is read against: the configuration, and the "symbolic name the pin map defines" for pins. The
descriptors of R28 hold no name, so the names stand beside them (notes/assumptions/17.md). -/
structure AsmContext where
  cfg      : Config
  pinNames : List (Text × Nat)
  deriving DecidableEq, Repr

/-! ## Letters and numbers -/

/-- The pieces of a text between separators. -/
def pieces (sep : Char) (t : Text) : List Text :=
  match t with
  | [] => [[]]
  | ch :: rest =>
    if ch == sep then [] :: pieces sep rest
    else match pieces sep rest with
      | [] => [[ch]]
      | p :: ps => (ch :: p) :: ps

/-- Blank letters stand between a mnemonic and its operands and mean nothing elsewhere. -/
def isBlank (ch : Char) : Bool := ch == ' ' || ch == '\t' || ch == '\r'

/-- The value of a digit in a base. -/
def digitValue (base : Nat) (ch : Char) : Option Nat :=
  let v :=
    if 48 ≤ ch.toNat ∧ ch.toNat ≤ 57 then ch.toNat - 48
    else if 97 ≤ ch.toNat ∧ ch.toNat ≤ 102 then ch.toNat - 87
    else if 65 ≤ ch.toNat ∧ ch.toNat ≤ 70 then ch.toNat - 55
    else 16
  if v < base then some v else none

/-- The value of a run of digits, after `acc`. -/
def digitsValue (base acc : Nat) (t : Text) : Option Nat :=
  match t with
  | [] => some acc
  | ch :: rest => (digitValue base ch).bind (fun v => digitsValue base (acc * base + v) rest)

/-- "Numbers are decimal or `0x` hexadecimal" (R112). -/
def readNumber (t : Text) : Option Nat :=
  match t with
  | [] => none
  | '0' :: 'x' :: d :: ds => digitsValue 16 0 (d :: ds)
  | ds => digitsValue 10 0 ds

/-- A number of a given width. -/
def readBits (n : Nat) (t : Text) : Option (BitVec n) :=
  (readNumber t).bind (fun v => if v < 2 ^ n then some (BitVec.ofNat n v) else none)

/-! ## Operands -/

/-- A pin operand: "a number 0..N_PINS-1, a symbolic name the pin map defines, or `NULL` (0xFF)" (R112). -/
def readPin (ctx : AsmContext) (t : Text) : Option PinId :=
  if t = "NULL".toList then some nullPin
  else
    match (ctx.pinNames.find? (fun r => r.1 == t)).map (·.2) <|> readNumber t with
    | some v => if v < ctx.cfg.nPins then some (BitVec.ofNat 8 v) else none
    | none => none

/-- The registers of R71 that stand once, by name and address. -/
def registerNames : List (Text × Nat) :=
  [ ("ICTL".toList, 0x000), ("IFLG".toList, 0x001), ("UCTL".toList, 0x002),
    ("USTA".toList, 0x003), ("BRGL".toList, 0x004), ("BRGH".toList, 0x005),
    ("RXSEL".toList, 0x006), ("TPRE".toList, 0x007), ("STAT".toList, 0x008),
    ("SERR".toList, 0x00C), ("RXQLEN".toList, 0x00D), ("TXQLEN".toList, 0x00E),
    ("TXQCUR".toList, 0x00F), ("TMRMS".toList, 0x010), ("TMRUS".toList, 0x014),
    ("RCBOUND".toList, 0x016), ("TXBOUND".toList, 0x017),
    ("ARG".toList, 0x018), ("CFGFREQ".toList, 0x020), ("CFGDEV".toList, 0x030),
    ("RXQBUF".toList, 0x100), ("TXQBUF".toList, 0x200) ]

/-- The registers of R71 that stand once per port, pin or queue place: name, first address, distance. -/
def indexedNames : List (Text × Nat × Nat) :=
  [ ("DIR".toList, 0x040, 4), ("PORTIN".toList, 0x041, 4), ("ANSEL".toList, 0x042, 4),
    ("LAT".toList, 0x043, 4), ("ROUTE".toList, 0x080, 1), ("RXQBUF".toList, 0x100, 1),
    ("TXQBUF".toList, 0x200, 1) ]

/-- The address of a register name, plain or indexed as the spec writes it (`DIR[1]`, `TXQBUF[0]`). DESIGN CHOICE
(notes/assumptions/20.md), unsafe: an index outside R71's range is accepted and its address computed by the row's
formula. -/
def readName (t : Text) : Option Nat :=
  match pieces '[' t with
  | [name] => (registerNames.find? (fun r => r.1 == name)).map (·.2)
  | [name, index] =>
    match pieces ']' index, indexedNames.find? (fun r => r.1 == name) with
    | [n, []], some (_, base, distance) => (readNumber n).map (fun k => base + distance * k)
    | _, _ => none
  | _ => none

/-- An address operand: "a number or a register name ..., optionally `name+k`" (R112).
A name's address is taken modulo 4096, so an index or a k outside the register's range can name another register: the
model's choice (notes/assumptions/16.md, DEDUCED; notes/assumptions/20.md, DESIGN CHOICE). -/
def readAddr (t : Text) : Option Addr :=
  match pieces '+' t with
  | [x] => readBits 12 x <|> (readName x).map (BitVec.ofNat 12)
  | [x, k] => (readName x).bind (fun a => (readNumber k).map (fun n => BitVec.ofNat 12 (a + n)))
  | _ => none

/-- A two-valued operand: the first word means 1, the second 0 (R105, R112). -/
def readFlag (one zero : String) (t : Text) : Option Bool :=
  if t = one.toList then some true else if t = zero.toList then some false else none

/-! ## Lines -/

/-- One command of R112 or one pseudo-instruction of R113: its mnemonic and its operands. -/
def readCommand (ctx : AsmContext) (mnemonic : Text) (operands : List Text) : Option (List Instr) :=
  match String.ofList mnemonic, operands with
  | "NOP", [] => some [.nop]
  | "PINDIR", [p, f] =>
    (readPin ctx p).bind (fun p => (readFlag "OUT" "IN" f).map (fun f => [.pindir p f]))
  | "PINRD", [p] => (readPin ctx p).map (fun p => [.pinrd p])
  | "PINWR", [p, f] =>
    (readPin ctx p).bind (fun p => (readFlag "1" "0" f).map (fun f => [.pinwr p f]))
  | "PINANA", [p, f] =>
    (readPin ctx p).bind (fun p => (readFlag "ANA" "DIG" f).map (fun f => [.pinana p f]))
  | "TMRINIT", [] => some [.tmrinit]
  | "TMRTICK", [] => some [.tmrtick]
  | "SERINIT", [rc, tx] =>
    (readPin ctx rc).bind (fun rc => (readPin ctx tx).map (fun tx => [.serinit rc tx]))
  | "SERPROC", [] => some [.serproc]
  | "CRITENT", [] => some [.critent]
  | "CRITEXIT", [f] => (readFlag "1" "0" f).map (fun f => [.critexit f])
  | "LDB", [a] => (readAddr a).map (fun a => [.ldb a])
  | "STB", [a, v] => (readAddr a).bind (fun a => (readBits 8 v).map (fun v => [.stb a v]))
  | "PINOUT", [p] => (readPin ctx p).map (fun p => (Pseudo.pinout p).expand)
  | "PININ", [p] => (readPin ctx p).map (fun p => (Pseudo.pinin p).expand)
  | "PINHI", [p] => (readPin ctx p).map (fun p => (Pseudo.pinhi p).expand)
  | "PINLO", [p] => (readPin ctx p).map (fun p => (Pseudo.pinlo p).expand)
  | "STW", [a, v] =>
    (readAddr a).bind (fun a => (readBits 32 v).map (fun v => (Pseudo.stw a v).expand))
  | "STH", [a, v] =>
    (readAddr a).bind (fun a => (readBits 16 v).map (fun v => (Pseudo.sth a v).expand))
  | "LDW", [a] => (readAddr a).map (fun a => (Pseudo.ldw a).expand)
  | "SETBAUD", [v] => (readBits 32 v).map (fun v => (Pseudo.setbaud v).expand)
  | _, _ => none

/-- "one command per line, operands separated by commas, `;` starts a comment" (R112). A blank line is no command. -/
def readLine (ctx : AsmContext) (line : Text) : Option (List Instr) :=
  let t := (line.takeWhile (· != ';')).dropWhile isBlank
  let operands := (t.dropWhile (!isBlank ·)).filter (!isBlank ·)
  if t = [] then some []
  else readCommand ctx (t.takeWhile (!isBlank ·)) (if operands = [] then [] else pieces ',' operands)

/-- The commands of a list of lines, in order, or none if a line is not of the syntax. -/
def readLines (ctx : AsmContext) (lines : List Text) : Option (List Instr) :=
  match lines with
  | [] => some []
  | l :: ls => (readLine ctx l).bind (fun is => (readLines ctx ls).map (is ++ ·))

/-- The command words of a program text (R112, R113). -/
def assemble (ctx : AsmContext) (program : Text) : Option (List Word) :=
  (readLines ctx (pieces '\n' program)).map (·.map encode)

end Sys2Proof.Machine
end

