-- ==== Sys2Proof/Tests/Slice0.lean ====
section
/-! SUPPORT. Tests of the model against spec/95_test_vectors.md (the vector is named at each), the refusals of
WellFormed, and for each obligation with hypotheses a state and operands that meet them. -/

namespace Sys2Proof.Tests

open Sys2Proof.Machine

/-! ## The bench -/

/-- The reset state under REFCFG with its unspecified contents settled. -/
def bench : State := { State.reset with arg := 9600, lat := [0x00, 0x00], tmrms := 0, tmrus := 0 }

/-- The state of vector I1: after `SERINIT 3, 4` at 9600. -/
def linked : State :=
  { bench with
    uctl := ⟨true, true, true, 0⟩, brgl := 0x0C, rcbound := 3, txbound := 4, rxsel := 0x14
    dir := [0xFF, 0xDF], ansel := [0xFF, 0xEF], route := [0, 0, 0, 0, 0x24, 0]
    mem := [(0x100, 0), (0x101, 0), (0x102, 0), (0x103, 0)] }

/-- A state with the given words for the host to present. -/
def presenting (ws : List Word) (s : State) : State := { s with cmds := ws }

/-- A state with the given schedule. -/
def scheduled (ms : List Move) (s : State) : State := { s with moves := ms }

/-- What a step left in the fields looked at. -/
def got {α : Type} (f : State → α) (r : Result) : Option α :=
  match r with
  | .next t => some (f t)
  | .fault _ => none
  | .refused _ => none

/-- The message of a decoding error, or none for a legal word. -/
def cause (c : Config) (w : Word) : Option Cause :=
  match decodeCommand c w with
  | .error e => some e
  | .ok _ => none

/-! ## Decoding: each word from its fields op, a, b, c (R101 to R103) -/

theorem test_decode_pins :
    decode (0b00000001#8 ++ 0b00000011#8 ++ 0b00000000#8 ++ 0b00000001#8) = .ok (.pindir 3 true)
      ∧ decode (0b00000010#8 ++ 0b00000011#8 ++ 0b00000000#8 ++ 0b00000000#8) = .ok (.pinrd 3)
      ∧ decode (0b00000011#8 ++ 0b11111111#8 ++ 0b00000000#8 ++ 0b00000000#8) = .ok (.pinwr nullPin false)
      ∧ decode (0b00000100#8 ++ 0b00000101#8 ++ 0b00000000#8 ++ 0b00000001#8) = .ok (.pinana 5 true) := by decide

theorem test_decode_timer :
    decode (0b00010000#8 ++ 0b00000000#8 ++ 0b00000000#8 ++ 0b00000000#8) = .ok .tmrinit
      ∧ decode (0b00010001#8 ++ 0b00000000#8 ++ 0b00000000#8 ++ 0b00000000#8) = .ok .tmrtick := by decide

theorem test_decode_serial :
    decode (0b00100000#8 ++ 0b00000011#8 ++ 0b00000100#8 ++ 0b00000000#8) = .ok (.serinit 3 4)
      ∧ decode (0b00100001#8 ++ 0b00000000#8 ++ 0b00000000#8 ++ 0b00000000#8) = .ok .serproc := by decide

theorem test_decode_system :
    decode (0b00000000#8 ++ 0b00000000#8 ++ 0b00000000#8 ++ 0b00000000#8) = .ok .nop
      ∧ decode (0b00110000#8 ++ 0b00000000#8 ++ 0b00000000#8 ++ 0b00000000#8) = .ok .critent
      ∧ decode (0b00110001#8 ++ 0b00000000#8 ++ 0b00000000#8 ++ 0b00000001#8) = .ok (.critexit true)
      ∧ decode (0b01000000#8 ++ 0b00001010#8 ++ 0b10111100#8 ++ 0b00000000#8) = .ok (.ldb 0xABC)
      ∧ decode (0b01000001#8 ++ 0b00000010#8 ++ 0b00000001#8 ++ 0b01101001#8) = .ok (.stb 0x201 0x69) := by decide

/-- Vectors X1 to X12: the first two checks of R109. -/
theorem test_decode_rejects :
    [0x05000000, 0xFFFFFFFF, 0x00000001, 0x01030002, 0x01030100, 0x02030001, 0x30000001, 0x31000002, 0x20030401,
      0x40100000, 0x40FFFF00, 0x11000001].map (fun w => cause .ref w)
      = [some .illegalOpcode, some .illegalOpcode] ++ List.replicate 10 (some .reservedField) := by decide

/-- Vectors X13 to X26: the checks that need the configuration. -/
theorem test_port_rejects :
    [0x01060001, 0x01FE0001, 0x20070400, 0x2003FE00, 0x01060002, 0x11000000, 0x40000900, 0x40010400, 0x40004800,
      0x40008500, 0x41008255, 0x40030000, 0x4000FF00, 0x01FF0001].map (fun w => cause .ref w)
      = List.replicate 4 (some .invalidPin) ++ [some .reservedField, some .wrongContext]
        ++ List.replicate 7 (some .unmappedAddress) ++ [none] := by decide

/-- Words of spec/95_test_vectors.md sections 2 and 3. -/
theorem test_encode :
    encode (.pinana 4 false) = 0x04040000 ∧ encode (.serinit nullPin 4) = 0x20FF0400
      ∧ encode (.stb 0x019 0x25) = 0x41001925 ∧ encode (.ldb 0x103) = 0x40010300 := by decide

theorem test_decodeTableWord :
    decodeTableWord 32 0x20FFFF00 = some (.serinit nullPin nullPin) ∧ decodeTableWord 32 0x05000000 = none := by decide

/-- The opcode map's masks and patterns leave no word with two readings. -/
theorem test_rows_disjoint :
    [Mnemonic.nop, .pindir, .pinrd, .pinwr, .pinana, .tmrinit, .tmrtick, .serinit, .serproc, .critent, .critexit,
      .ldb, .stb].Pairwise (fun a b => a.matchWord &&& a.mask &&& b.mask ≠ b.matchWord &&& a.mask &&& b.mask) := by
  decide

/-! ## Ill-formed instructions -/

theorem test_wellFormed_pins :
    (Instr.pindir 6 true).wellFormed .ref = false ∧ (Instr.pinrd 0xFE).wellFormed .ref = false
      ∧ (Instr.pinwr 6 false).wellFormed .ref = false ∧ (Instr.pinana 0x80 true).wellFormed .ref = false
      ∧ (Instr.pinrd 5).wellFormed .ref = true ∧ (Instr.pinrd nullPin).wellFormed .ref = true := by decide

theorem test_wellFormed_serinit :
    (Instr.serinit 7 4).wellFormed .ref = false ∧ (Instr.serinit 3 0xFE).wellFormed .ref = false
      ∧ (Instr.serinit nullPin 4).wellFormed .ref = true := by decide

theorem test_wellFormed_address :
    (Instr.ldb 0x009).wellFormed .ref = false ∧ (Instr.ldb 0x104).wellFormed .ref = false
      ∧ (Instr.stb 0x082 0x55).wellFormed .ref = false ∧ (Instr.stb 0x300 0).wellFormed .ref = false
      ∧ (Instr.ldb 0x103).wellFormed .ref = true := by decide

/-! ## One step of each instruction -/

/-- Y1. -/
theorem test_nop : exec .nop bench = .next { bench with res := some 0 } := by rfl

/-- P1, P4. -/
theorem test_pindir :
    got (·.dir) (exec (.pindir 3 true) bench) = some [0xFF, 0xEF]
      ∧ got (·.dir) (exec (.pindir 5 false) { bench with dir := [0x00, 0x00] }) = some [0x00, 0x40] := by decide

/-- P14, P16: the latch of an output pin, the port of an input pin. -/
theorem test_pinrd_latch_or_port :
    got (·.res) (exec (.pinrd 3) { bench with dir := [0xFF, 0xEF], lat := [0, 0x10], script := [0x00] })
        = some (some 1)
      ∧ got (·.res) (exec (.pinrd 3) { bench with lat := [0, 0x10], script := [0x00] }) = some (some 0) := by decide

/-- P18, P19: no direction register, always the port bit. -/
theorem test_pinrd_input_only :
    got (·.res) (exec (.pinrd 2) { bench with script := [0x08] }) = some (some 1)
      ∧ got (·.res) (exec (.pinrd 2) { bench with script := [0xF7] }) = some (some 0) := by decide

/-- P8, P9. -/
theorem test_pinwr :
    got (·.lat) (exec (.pinwr 3 false) { bench with lat := [0x00, 0xFF] }) = some [0x00, 0xEF]
      ∧ got (·.lat) (exec (.pinwr 3 true) bench) = some [0x00, 0x10] := by decide

/-- P11, P13. -/
theorem test_pinana :
    got (·.ansel) (exec (.pinana 3 false) bench) = some [0xFF, 0xEF]
      ∧ got (·.ansel) (exec (.pinana 4 false) bench) = some [0xFF, 0xFF] := by decide

/-- TMRINIT with ICTL = 0x83 (section 2.2). -/
theorem test_tmrinit :
    got (fun t => (t.ictl.toByte, t.tpre, t.stat.toByte, t.tickPending))
      (exec .tmrinit { bench with ictl := .ofByte 0x83, tickPending := true }) = some (0x87, 0x02, 0x01, true) := by
  decide

/-- T15, T17: the wrap, and a stored accumulator beyond its range. -/
theorem test_tmrtick :
    got (fun t => (t.tmrms, t.tmrus)) (exec .tmrtick { bench with ctx := .int, tmrms := 0xFFFFFFFF, tmrus := 999 })
        = some (1, 23)
      ∧ got (fun t => (t.tmrms, t.tmrus)) (exec .tmrtick { bench with ctx := .int, tmrms := 7, tmrus := 65535 })
        = some (73, 559) := by decide

/-- X18. -/
theorem test_tmrtick_on_the_port :
    got (fun t => (t.stat.toByte, t.tmrms, t.res)) (step (presenting [0x11000000] bench)) = some (0xC0, 0, some 0) := by
  decide

/-- B1, B6, B10, B17, B22, B23 and the failures B11, B13, B24, B28. -/
theorem test_brg :
    [9600, 488, 8, 11364, 500000, 666666, 7, 0, 666667, 0xFFFFFFFF].map (brgSelect .ref)
      = [some (0, 12), some (1, 1023), some (1, 62499), some (1, 42), some (2, 3), some (2, 2), none, none, none, none]
      ∧ achieved .ref 0 12 = 9615 ∧ achieved .ref 1 1023 = 488 ∧ achieved .ref 2 3 = 500000 := by decide

/-- I1. -/
theorem test_serinit :
    got (fun t => (t.res, t.uctl.toByte, t.brgl, t.rcbound, t.txbound)) (exec (.serinit 3 4) bench)
        = some (some 9615, 0xB0, 0x0C, 3, 4)
      ∧ got (fun t => (t.dir, t.ansel, t.rxsel, t.route)) (exec (.serinit 3 4) bench)
        = some ([0xFF, 0xDF], [0xFF, 0xEF], 0x14, [0, 0, 0, 0, 0x24, 0])
      ∧ got (fun t => (t.mem, t.rxqlen, t.serr)) (exec (.serinit 3 4) { bench with serr := true, rxqlen := 3 })
        = some ([(0x100, 0), (0x101, 0), (0x102, 0), (0x103, 0)], 0, false) := by decide

/-- I4, I7: a pin that cannot transmit; the same pin twice. -/
theorem test_serinit_pins :
    got (fun t => (t.uctl.toByte, t.txbound, t.dir)) (exec (.serinit 3 5) bench)
        = some (0x90, nullPin, [0xFF, 0xFF])
      ∧ got (fun t => (t.rxsel, t.dir, t.ansel, t.route)) (exec (.serinit 3 3) bench)
        = some (0x14, [0xFF, 0xEF], [0xFF, 0xEF], [0, 0, 0, 0x24, 0, 0]) := by decide

/-- R177, on the writes of vector I1: within the one step the receive pin's input-select is driven before its enable,
the transmit pin's routing before its enable, and `uart_en_o` rises last. -/
theorem test_serinit_order :
    ((serinitLevels 0 12 3 4 bench).map
        (fun o => (o.rxselO, o.rxEnO, o.routeO.getD 4 none, o.txEnO, o.uartEnO))).dedup
      = [(0x00, false, some 0x00, false, false), (0x14, false, some 0x00, false, false),
        (0x14, true, some 0x00, false, false), (0x14, true, some 0x24, false, false),
        (0x14, true, some 0x24, true, false), (0x14, true, some 0x24, true, true)] := by decide

/-- Q14: a SERPROC inside a critical section finds GIE 0 and leaves it 0. -/
theorem test_serproc_exit :
    got (fun t => (t.ictl.toByte, t.seq, t.res)) (step { linked with ictl := .ofByte 0x04, seq := .pExit })
      = some (0x04, .idle, some 0) := by decide

/-- Q4, Q5: a framing error before a full queue; the last free place. -/
theorem test_serproc_receive :
    got (fun t => (t.rxqlen, t.serr, t.mem))
        (step { linked with seq := .pRxloop, rxqlen := 4, uart := { linked.uart with rxf := [⟨0x42, true⟩] } })
        = some (4, true, linked.mem)
      ∧ got (fun t => (t.rxqlen, t.serr, rxqbuf t 3))
        (step { linked with seq := .pRxloop, rxqlen := 3, uart := { linked.uart with rxf := [⟨0x45, false⟩] } })
        = some (4, false, 0x45) := by decide

/-- Y2, Y3. -/
theorem test_critent :
    got (fun t => (t.res, t.ictl.toByte)) (exec .critent { bench with ictl := .ofByte 0x84 }) = some (some 1, 0x04)
      ∧ got (fun t => (t.res, t.ictl.toByte)) (exec .critent { bench with ictl := .ofByte 0x04 })
        = some (some 0, 0x04) := by decide

/-- Y4, Y6. -/
theorem test_critexit :
    got (·.ictl.toByte) (exec (.critexit true) { bench with ictl := .ofByte 0x04 }) = some 0x84
      ∧ got (·.ictl.toByte) (exec (.critexit false) { bench with ictl := .ofByte 0x84 }) = some 0x04 := by decide

/-- Y7, Y8, Y9, Y10. -/
theorem test_ldb_bytes :
    [0x010, 0x011, 0x012, 0x013, 0x020, 0x021, 0x022, 0x023, 0x030].map
        (fun a => got (·.res) (exec (.ldb a) { bench with tmrms := 0x00012345 }))
      = [0x45, 0x23, 0x01, 0x00, 0x00, 0x12, 0x7A, 0x00, 0x52].map (fun b => some (some b)) := by decide

/-- Y17, Y18, Y19. -/
theorem test_ldb_signals :
    got (·.res) (exec (.ldb 0x001) linked) = some (some 0x01)
      ∧ got (·.res) (exec (.ldb 0x003) { linked with uart := { linked.uart with rxf := [⟨0x42, true⟩] } })
        = some (some 0x04)
      ∧ got (·.res) (exec (.ldb 0x003) { linked with uart := { linked.uart with oerr := true } })
        = some (some 0x02) := by decide

/-- Y11, Y12, Y16. -/
theorem test_stb :
    got (·.ictl.toByte) (exec (.stb 0x000 0xFF) bench) = some 0x87
      ∧ got serrByte (exec (.stb 0x00C 0xFF) bench) = some 0x01
      ∧ got (·.arg) (exec (.stb 0x019 0x25) { bench with arg := 0x11223344 }) = some 0x11222544 := by decide

/-- Y13, Y14: accepted and ignored. -/
theorem test_stb_ignored :
    exec (.stb 0x001 0x55) linked = .next { linked with res := some 0 }
      ∧ got (·.dir) (exec (.stb 0x044 0x00) linked) = some [0xFF, 0xDF] := by
  refine ⟨rfl, ?_⟩; decide

/-! ## The sequencer, the environment and the interface -/

/-- V1, V2: interrupt entry at a boundary, and not with GIE = 0. -/
theorem test_interrupt_entry :
    got (fun t => (t.ictl.toByte, t.ctx, t.seq))
        (step { bench with ictl := .ofByte 0x84, tickPending := true }) = some (0x04, .int, .iTick)
      ∧ got (fun t => (t.ctx, t.res)) (step (presenting [0] { bench with ictl := .ofByte 0x04, tickPending := true }))
        = some (.bg, some 0) := by decide

/-- Q16: an arrival at a full receiver raises the overrun. -/
theorem test_arrive :
    got (fun t => (t.uart.rxf.length, t.uart.oerr))
      (step (scheduled [.arrive 0x63 false]
        { linked with uart := { linked.uart with rxf := [⟨0x61, false⟩, ⟨0x62, false⟩] } })) = some (2, true) := by
  decide

/-- Q6, Q7: the receiver reset with and without the flush. -/
theorem test_receiver_reset :
    got (fun t => (t.uart.rxf.length, t.uart.oerr, t.serr))
        (step { linked with seq := .pRxchk, uart := { linked.uart with rxf := [⟨0x47, false⟩], oerr := true } })
        = some (0, false, true)
      ∧ got (fun t => (t.uart.rxf.length, t.uart.oerr, t.serr))
        (step { linked with
          cfg := { linked.cfg with rxResetFlush := false }, seq := .pRxchk
          uart := { linked.uart with rxf := [⟨0x47, false⟩], oerr := true } }) = some (1, false, true) := by decide

/-- A word placed for the next step is what the next step runs. -/
theorem test_withFetchWord :
    got (fun t => (t.stat.toByte, t.tpre, t.cmds)) (step (State.reset.withFetchWord 32 0x10000000))
      = some (0x01, 0x02, []) := by decide

/-- Reset memory is in canonical form, and a write keeps addresses rising. -/
theorem test_memory_form :
    Memory.wf State.reset.mem ∧ Memory.write [(0x100, 0), (0x200, 1)] 0x101 7 = [(0x100, 0), (0x101, 7), (0x200, 1)]
      ∧ Memory.write [(0x100, 0)] 0x100 7 = [(0x100, 7)] := by decide

/-- R112, R113: lines of programs 3.1 and 3.2, and the expansion of SETBAUD. -/
theorem test_assemble :
    assemble ⟨.ref, [("C4".toList, 3), ("C5".toList, 4)]⟩
        "SETBAUD 9600 ; ARG\nSERINIT C4, C5\nPINANA 3, DIG\n\nLDB ROUTE[4]\nSTB TXQBUF+1, 0x69".toList
      = some [0x41001880, 0x41001925, 0x41001A00, 0x41001B00, 0x20030400, 0x04030000, 0x40008400, 0x41020169]
      ∧ assemble ⟨.ref, []⟩ "PINRD 6".toList = none := by decide

/-! ## Witnesses: states and operands that meet the hypotheses of the obligations, a case for each clause -/

/-- REFCFG with the map's pins as the clauses need them: pin 0 with no port register, pin 1 an output without a
latch, pins 2 to 5 as in REFMAP. -/
def oddPins : Config :=
  { Config.ref with
    pinMap := [⟨0x00, true, 0x01, none, none, none, none⟩, ⟨0x01, true, 0x02, some 0, some 0, none, none⟩]
      ++ refMap.drop 2 }

/-- The bench takes any word. -/
theorem accepts_bench (w : Word) : accepts (presenting [w] bench) w [] :=
  ⟨(by decide : bench.cfg.ok = true), (by decide : blockMoves bench = true), (by decide : portOpen bench = true), rfl⟩

/-- The bench names a pin of REFMAP. -/
theorem namesPin_bench {p : PinId} {d : PinDescriptor} (hp : p ≠ nullPin) (h : refMap[p.toNat]? = some d) :
    namesPin bench p d := ⟨hp, h⟩

theorem test_witness_FirstFailingCheckGivesTheCause :
    (∀ m : Mnemonic, opField 0x05000000 ≠ m.op)
      ∧ (opField 0x01060002 = Mnemonic.pindir.op ∧ (0x01060002#32 &&& Mnemonic.pindir.mask ≠ Mnemonic.pindir.matchWord))
      ∧ (badPin .ref (aField 0x01060001) ∧ ¬ badPin .ref (aField 0x01050001) ∧ ¬ badPin .ref (aField 0x01FF0001))
      ∧ (¬ badPin .ref (aField 0x2003FE00) ∧ badPin .ref (bField 0x2003FE00))
      ∧ opField 0x11000000 = Mnemonic.tmrtick.op
      ∧ regAt .ref (addrOf (aField 0x40010400) (bField 0x40010400)) = none
      ∧ regAt .ref (addrOf (aField 0x40010300) (bField 0x40010300)) = some (.rxqbuf 3) := by
  refine ⟨fun m => by cases m <;> decide, by decide, ?_, ?_, by decide⟩ <;> unfold badPin <;> decide

theorem test_witness_StepRunsTheDecodedCommand :
    accepts (presenting [0x40000100] linked) 0x40000100 [] ∧ decode 0x40000100 = .ok (.ldb 0x001) :=
  ⟨⟨by decide, by decide, by decide, rfl⟩, by decide⟩

theorem test_witness_WordsAreTakenOnlyAtAnOpenPort :
    ∃ t, step (presenting [0, 0] bench) = .next t ∧ t.cmds ≠ (presenting [0, 0] bench).cmds :=
  ⟨_, rfl, by decide⟩

theorem test_witness_DroppedCommandChangesOnlyStat :
    ([0x05000000, 0x00000001, 0x01060001, 0x11000000, 0x40000900].map (cause .ref)
        = [some .illegalOpcode, some .reservedField, some .invalidPin, some .wrongContext, some .unmappedAddress]
      ∧ ∀ w, accepts (presenting [w] bench) w [])
      ∧ ∃ t, step { bench with stat := ⟨true, 1, false⟩ } = .next t ∧ bench.moves.head? ≠ some .rst :=
  ⟨⟨by decide, accepts_bench⟩, _, rfl, by decide⟩

/-- PindirWritesTheDirectionBit, PinwrWritesTheLatchBit, PinanaWritesTheAnalogBit. -/
theorem test_witness_pin_writes :
    (∃ d, namesPin bench 2 d ∧ d.dir = none ∧ d.lat = none ∧ d.ansel = none)
      ∧ (∃ d, namesPin bench 0 d ∧ d.dir = some 0 ∧ d.lat = some 0 ∧ d.ansel = some 0)
      ∧ ∃ d, namesPin bench 5 d ∧ d.dir = some 1 ∧ d.lat = some 1 ∧ d.ansel = some 1 :=
  ⟨⟨_, namesPin_bench (by decide) rfl, by decide⟩, ⟨_, namesPin_bench (by decide) rfl, by decide⟩,
    ⟨_, namesPin_bench (by decide) rfl, by decide⟩⟩

theorem test_witness_PinrdReadsTheLatchOrThePort :
    (∃ d, namesPin { bench with cfg := oddPins } 0 d ∧ d.port = none)
      ∧ (∃ d, namesPin { bench with dir := [0xFF, 0xEF] } 3 d ∧ d.port = some 1 ∧ d.dir = some 1 ∧ d.lat = some 1
        ∧ (0xEF#8 &&& d.mask = 0))
      ∧ (∃ d, namesPin bench 2 d ∧ d.port = some 0 ∧ d.dir = none)
      ∧ (∃ d, namesPin bench 3 d ∧ d.port = some 1 ∧ d.dir = some 1 ∧ (bench.dir.getD 1 0 &&& d.mask ≠ 0))
      ∧ ∃ d, namesPin { bench with cfg := oddPins } 1 d ∧ d.port = some 0 ∧ d.lat = none :=
  ⟨⟨_, ⟨by decide, rfl⟩, by decide⟩, ⟨_, ⟨by decide, rfl⟩, by decide⟩, ⟨_, ⟨by decide, rfl⟩, by decide⟩,
    ⟨_, ⟨by decide, rfl⟩, by decide⟩, ⟨_, ⟨by decide, rfl⟩, by decide⟩⟩

/-- The bench meets the shape invariant. -/
theorem shape_bench : ShapeInv bench := by unfold ShapeInv; decide

theorem test_witness_PinRoundTrip :
    bench.cfg.ok = true ∧ bench.cfg.pinMapWf = true ∧ ShapeInv bench
      ∧ ∃ d, namesPin bench 3 d ∧ d.dir.isSome = true ∧ d.lat.isSome = true :=
  ⟨by decide, by decide, shape_bench, _, ⟨by decide, rfl⟩, by decide⟩

/-- The clause of the pin without a latch: one port, one pin. -/
theorem test_witness_PinRoundTrip_no_latch :
    let c := { Config.ref with pinMap := [⟨0x00, true, 0x80, some 1, some 1, none, none⟩] }
    c.ok = true ∧ c.pinMapWf = true ∧ ShapeInv { bench with cfg := c, route := [0] }
      ∧ ∃ d, namesPin { bench with cfg := c, route := [0] } 0 d ∧ d.dir.isSome = true ∧ d.lat = none :=
  ⟨by decide, by decide, by unfold ShapeInv; decide, _, ⟨by decide, rfl⟩, by decide⟩

theorem test_witness_LatchReachesTheLineWhenThePinIsAnOutput :
    bench.cfg.ok = true ∧ bench.cfg.pinMapWf = true ∧ ShapeInv bench
      ∧ ∃ d, namesPin bench 5 d ∧ d.dir = some 1 ∧ d.lat.isSome = true ∧ (bench.dir.getD 1 0 &&& d.mask ≠ 0)
        ∧ (outputs bench).routeO[(5 : PinId).toNat]? ≠ some (some bench.cfg.txFuncCode) :=
  ⟨by decide, by decide, shape_bench, _, ⟨by decide, rfl⟩, by decide⟩

theorem test_witness_PinCommandsKeepEveryOtherByte :
    (∃ t, exec (.pindir 3 true) linked = .next t) ∧ (∃ t, exec (.pinwr 6 true) linked = .next t)
      ∧ (∃ t, exec (.pinana 3 true) linked = .next t) ∧ (∃ t, exec (.pinrd nullPin) linked = .next t)
      ∧ pinOk linked.cfg 5 = true ∧ pinOk linked.cfg 6 = false :=
  ⟨⟨_, rfl⟩, ⟨_, rfl⟩, ⟨_, rfl⟩, ⟨_, rfl⟩, by decide⟩

theorem test_witness_TmrinitStartsTheTimer :
    ∃ row, bench.cfg.freqTable.find? (fun r => r.freq == bench.cfg.fClk) = some row := ⟨_, rfl⟩

theorem test_witness_TickCarriesWholeMilliseconds :
    ({ bench with ctx := .int, tmrus := 65535 } : State).ctx = .int
      ∧ accepts (presenting [0x11000000] bench) 0x11000000 [] := ⟨rfl, accepts_bench _⟩

theorem test_witness_TicksCountMicroseconds :
    ({ bench with ctx := .int } : State).ctx = .int ∧ ∃ t, exec .tmrinit bench = .next t := ⟨rfl, _, rfl⟩

theorem test_witness_TimerStateHasNoOtherWriter :
    (∃ t, step { bench with ctx := .int, seq := .iTick, tickPending := true } = .next t
        ∧ (t.tmrms, t.tmrus) ≠ (bench.tmrms, bench.tmrus) ∧ t.tickPending = false)
      ∧ (∃ t, step (presenting [0x41001501] bench) = .next t ∧ (t.tmrms, t.tmrus) ≠ (bench.tmrms, bench.tmrus))
      ∧ ∃ t, step (scheduled [.tick] bench) = .next t ∧ bench.tickPending = false ∧ t.tickPending = true :=
  ⟨⟨_, rfl, by decide⟩, ⟨_, rfl, by decide⟩, _, rfl, by decide⟩

theorem test_witness_TimerRunsUntilReset :
    (∃ t, step { linked with stat := ⟨false, 0, true⟩ } = .next t)
      ∧ ∃ t, step (presenting [0x10000000] bench) = .next t ∧ bench.stat.tmrRun = false ∧ t.stat.tmrRun = true :=
  ⟨⟨_, rfl⟩, _, rfl, by decide⟩

theorem test_witness_AchievedRateIsNeverZero :
    Config.ref.ok = true ∧ brgSelect .ref 666666 = some (2, 2) ∧ Config.ref.tiers[2]? = some ⟨4, 2, 65535⟩ := by decide

/-- The hypotheses of SerinitProgramsAndBinds, SerinitConfiguresItsPins and SymbolRateIsTheAchievedRate: both pins null,
pins that can and cannot transmit, the lowest and highest rates. -/
theorem test_witness_serinit_success :
    bench.cfg.ok = true ∧ (pinOk bench.cfg nullPin = true ∧ pinOk bench.cfg 5 = true ∧ pinOk bench.cfg 0 = true)
      ∧ (brgSelect bench.cfg ({ bench with arg := 8 } : State).arg.toNat = some (1, 62499)
        ∧ brgSelect bench.cfg ({ bench with arg := 666666 } : State).arg.toNat = some (2, 2))
      ∧ (∃ d, namesPin bench 5 d) ∧ routedPin bench.cfg 4 ∧ ¬ routedPin bench.cfg 5 ∧ ¬ routedPin bench.cfg nullPin := by
  refine ⟨by decide, by decide, by decide, ⟨_, ⟨by decide, rfl⟩⟩, ?_⟩
  unfold routedPin; decide

theorem test_witness_FailedSerinitWritesNothing :
    pinOk bench.cfg 3 = true ∧ brgSelect bench.cfg ({ bench with arg := 666667 } : State).arg.toNat = none
      ∧ brgSelect bench.cfg ({ bench with arg := 7 } : State).arg.toNat = none
      ∧ brgSelect bench.cfg ({ bench with arg := 0 } : State).arg.toNat = none := by decide

theorem test_witness_SerinitKeepsTheRest :
    linked.cfg.ok = true ∧ (∃ t, exec (.serinit 0 1) linked = .next t) ∧ (∃ t, exec (.serinit 6 1) linked = .next t)
      ∧ pinOk linked.cfg 0 = true := ⟨by decide, ⟨_, rfl⟩, ⟨_, rfl⟩, by decide⟩

theorem test_witness_OnlySerinitRebinds :
    ∃ t, step (presenting [0x20FF0400] bench) = .next t ∧ bench.moves.head? ≠ some .rst
      ∧ (t.brgl, t.brgh, t.uctl.tier, t.rcbound, t.txbound)
        ≠ (bench.brgl, bench.brgh, bench.uctl.tier, bench.rcbound, bench.txbound) := ⟨_, rfl, by decide⟩

/-- The hypotheses of the statements about one micro-step (SerprocSavesAndRestoresGie, OverrunResetsTheReceiver,
ReceiveLoopTakesOneByte, TransmitSendsAtMostOneByte, TickStageTestsTickPending): a configuration, the block to move,
the sequencer there, each branch. -/
theorem test_witness_micro_steps :
    let at_ (q : Seq) (c : Ctx) : State := { linked with seq := q, ctx := c, procOwner := c, tickPending := true }
    (linked.cfg.ok = true ∧ blockMoves linked = true ∧ blockMoves (scheduled [.block, .tick] linked) = true)
      ∧ ((at_ .pEnter .bg).seq = .pEnter ∧ (at_ .pExit .int).procOwner = .int ∧ (at_ .pExit .bg).procOwner = .bg
        ∧ (at_ .iTick .int).ctx = .int ∧ (at_ .iTick .int).tickPending = true ∧ linked.tickPending = false)
      ∧ linked.rcbound ≠ nullPin ∧ bench.rcbound = nullPin ∧ linked.uart.oerr = false := by decide

theorem test_witness_ReceiveLoopTakesOneByte :
    ({ linked with rxqlen := 3 } : State).rxqlen.toNat < linked.cfg.rxCap
      ∧ linked.cfg.rxCap ≤ ({ linked with rxqlen := 4 } : State).rxqlen.toNat ∧ linked.uart.rxf = [] := by decide

theorem test_witness_TransmitSendsAtMostOneByte :
    bench.txbound = nullPin ∧ linked.txbound ≠ nullPin ∧ txReady linked = true ∧ txReady bench = false
      ∧ ({ linked with txqlen := 4, txqcur := 3 } : State).txqcur.toNat < linked.cfg.txCap
      ∧ linked.cfg.txCap ≤ ({ linked with txqlen := 6, txqcur := 4 } : State).txqcur.toNat := by decide

/-- A host SERPROC at an open port with two bytes held, and the schedule that runs it through. -/
def polling : State :=
  scheduled (List.replicate 8 .block)
    (presenting [0x21000000] { linked with uart := { linked.uart with rxf := [⟨0x41, false⟩, ⟨0x42, true⟩] } })

theorem test_witness_SerprocIsItsBigStep :
    polling.cfg.ok = true ∧ portOpen polling = true ∧ polling.cmds = 0x21000000 :: []
      ∧ blockTurns polling (serprocSteps polling) [] := ⟨by decide, by decide, rfl, by unfold blockTurns; decide⟩

theorem test_witness_OverflowDropsAndFlags :
    let s := { polling with rxqlen := 4 }
    (s.cfg.ok = true ∧ portOpen s = true ∧ s.cmds = 0x21000000 :: [] ∧ blockTurns s (serprocSteps s) [])
      ∧ s.rcbound ≠ nullPin ∧ s.uart.oerr = false ∧ s.uart.rxf ≠ [] ∧ s.rxqlen.toNat = s.cfg.rxCap :=
  ⟨⟨by decide, by decide, rfl, by unfold blockTurns; decide⟩, by decide⟩

theorem test_witness_CleanBytesAreAppendedInOrder :
    polling.rcbound ≠ nullPin ∧ polling.uart.oerr = false
      ∧ ({ polling with rxqlen := 2 } : State).rxqlen.toNat + polling.uart.rxf.length ≤ polling.cfg.rxCap := by decide

theorem test_witness_QueueBoundsAreKept :
    let s := { linked with seq := .pTx, rxqlen := 4, txqlen := 4, txqcur := 3 }
    (∃ t, step s = .next t) ∧ SerialInv s ∧ ¬ storesQueueRegister s := by
  refine ⟨⟨_, rfl⟩, by unfold SerialInv; decide, ?_⟩
  rintro ⟨a, v, ⟨w, rest, ⟨-, -, hp, -⟩, -⟩, -⟩
  exact absurd hp (by decide)

/-- Two bytes to send and the schedule of two polls (R199). -/
def sending : State :=
  scheduled (pollSchedule 6 2)
    (presenting [0x21000000, 0x21000000]
      { linked with mem := linked.mem ++ [(0x200, 0x48), (0x201, 0x69)], txqlen := 2 })

theorem test_witness_PolledSendIsFifoExactlyOnce :
    (sending.cfg.ok = true ∧ sending.cfg.uartEnv = .reference ∧ portOpen sending = true ∧ sending.ictl.gie = false
        ∧ SerialInv sending ∧ sending.uctl.uartEn = true ∧ sending.uctl.txEn = true ∧ sending.txbound ≠ nullPin
        ∧ sending.uart.txh = [] ∧ sending.uart.rxf = [] ∧ sending.uart.oerr = false)
      ∧ sending.cmds = List.replicate (unsent sending).length 0x21000000 ++ []
      ∧ sending.moves = pollSchedule (serprocSteps sending) (unsent sending).length ++ [] := by
  unfold SerialInv; decide

theorem test_witness_ErrorFlagSetAndCleared :
    (∃ t, step { linked with seq := .pRxloop, uart := { linked.uart with rxf := [⟨0x42, true⟩] } } = .next t
        ∧ linked.serr = false ∧ t.serr = true)
      ∧ (∃ t, step (presenting [0x41000C00] { linked with serr := true }) = .next t ∧ t.serr = false)
      ∧ ∃ t, step (presenting [0x20030400] { bench with serr := true }) = .next t ∧ t.serr = false :=
  ⟨⟨_, rfl, by decide⟩, ⟨_, rfl, by decide⟩, _, rfl, by decide⟩

theorem test_witness_LdbRespondsWithTheByte :
    (regAt bench.cfg 0x103 = some (.rxqbuf 3) ∧ readDraws bench (.rxqbuf 3) = false)
      ∧ (regAt bench.cfg 0x045 = some (.portin 1) ∧ readDraws bench (.portin 1) = true)
      ∧ regAt bench.cfg 0x104 = none
      ∧ [0x000, 0x001, 0x002, 0x003, 0x004, 0x005, 0x006, 0x007, 0x008, 0x00C, 0x00D, 0x00E, 0x00F, 0x010, 0x015, 0x016,
          0x017, 0x01B, 0x020, 0x03F, 0x044, 0x045, 0x046, 0x047, 0x084, 0x100, 0x203].all
          (fun a => (regAt bench.cfg a).isSome) = true
      ∧ ({ linked.uart with rxf := [⟨0x42, true⟩] } : Uart).rxf = ⟨0x42, true⟩ :: [] := by decide

/-- Each group of StbStoresItsByte's clauses, and StbKeepsEveryOtherByte's hypotheses. -/
theorem test_witness_stb :
    bench.cfg.ok = true
      ∧ ([0x000, 0x00C, 0x00D, 0x00F, 0x013, 0x015, 0x01B, 0x103, 0x203, 0x085, 0xFFF, 0x084].map (regAt bench.cfg)
        = [some .ictl, some .serr, some .rxqlen, some .txqcur, some (.tmrms 3), some (.tmrus 1), some (.arg 3),
          some (.rxqbuf 3), some (.txqbuf 3), none, none, some (.route 4)])
      ∧ (∃ t, exec (.stb 0x203 0x48) bench = .next t) ∧ readDraws bench (.txqbuf 2) = false :=
  ⟨by decide, by decide, ⟨_, rfl⟩, rfl⟩

theorem test_witness_CommandsThatStoreNothingKeepEveryByte :
    (∃ t, exec .nop linked = .next t) ∧ (∃ t, exec .serproc linked = .next t) ∧ (∃ t, exec .critent linked = .next t)
      ∧ (∃ t, exec (.critexit true) linked = .next t) ∧ (∃ t, exec (.ldb 0x045) linked = .next t)
      ∧ (∃ t, exec .tmrinit linked = .next t) ∧ ∃ t, exec .tmrtick { linked with ctx := .int } = .next t :=
  ⟨⟨_, rfl⟩, ⟨_, rfl⟩, ⟨_, rfl⟩, ⟨_, rfl⟩, ⟨_, rfl⟩, ⟨_, rfl⟩, _, rfl⟩

/-- AddressMapIsTheTable, EveryOtherAddressIsUnmapped and the other statements for every configuration that is one: the
map's hypotheses, with an address at each edge. -/
theorem test_witness_address_map :
    Config.ref.ok = true ∧ Config.ref.hasRoute 4 = true ∧ Config.ref.hasRoute 5 = false
      ∧ [0x008, 0x009, 0x00B, 0x00C, 0x01B, 0x01C, 0x01F, 0x023, 0x024, 0x02F, 0x047, 0x048, 0x07F, 0x085, 0x104, 0x1FF,
        0x204, 0xFFF].map (fun a => (regAt .ref a).isSome)
        = [true, false, false, true, true, false, false, true, false, false, true, false, false, false, false, false,
          false, false] := by decide

theorem test_witness_InterruptEntryAndReturn :
    bench.cfg.ok = true ∧ blockMoves bench = true ∧ bench.seq = .idle ∧ bench.ctx = .bg
      ∧ irq { bench with ictl := .ofByte 0x84, tickPending := true } = true := by decide

theorem test_witness_ServiceRestoresTheBackground :
    let s := scheduled (List.replicate 8 .block)
      { linked with ictl := .ofByte 0x86, tickPending := true }
    s.cfg.ok = true ∧ s.seq = .idle ∧ s.ctx = .bg ∧ irq s = true ∧ blockTurns s (serviceSteps s) [] :=
  ⟨by decide, rfl, rfl, by decide, by unfold blockTurns; decide⟩

theorem test_witness_InterruptsDoNotNest :
    let s := { linked with ctx := .int, seq := .iRet, procOwner := .int }
    ControlInv s ∧ s.moves.head? ≠ some .rst ∧ ∃ t, step s = .next t :=
  ⟨⟨rfl, rfl⟩, by decide, _, rfl⟩

theorem test_witness_UnservableRequestLivelocks :
    (unservable { linked with ictl := .ofByte 0x81 } = true
        ∧ unservable { bench with ictl := .ofByte 0x82, uart := { bench.uart with rxf := [⟨0, false⟩] } } = true)
      ∧ linked.cfg.ok = true ∧ linked.moves = [] ∧ linked.seq = .idle ∧ linked.ctx = .bg
      ∧ (Ictl.ofByte 0x81).gie = true := by decide

theorem test_witness_EnvironmentStepsLeaveTheBlock :
    linked.cfg.ok = true ∧ (scheduled [.sent, .block] linked).moves = .sent :: [.block]
      ∧ (scheduled [.tick] linked).moves = .tick :: [] := ⟨by decide, rfl, rfl⟩

/-- Its clauses: an enabled receiver with room and full, a disabled one, one in overrun; a byte to send; a contract
peripheral. -/
theorem test_witness_EnvironmentStepsLeaveTheBlock_clauses :
    let full : Uart := { linked.uart with rxf := [⟨0x61, false⟩, ⟨0x62, false⟩] }
    (linked.cfg.uartEnv = .reference ∧ linked.uctl.uartEn = true ∧ linked.uctl.rxEn = true ∧ linked.uart.oerr = false)
      ∧ (linked.uart.rxf.length < linked.cfg.rxfDepth ∧ linked.cfg.rxfDepth ≤ full.rxf.length ∧ full.oerr = false)
      ∧ (bench.uctl.uartEn = false ∧ { linked.uart with oerr := true }.oerr = true)
      ∧ (bench.uart.txh = [] ∧ ({ linked.uart with txh := [0x48] } : Uart).txh = 0x48 :: [])
      ∧ ({ Config.ref with uartEnv := .contract } : Config).ok = true := by decide

theorem test_witness_ReceivedByteIsStable :
    let s := { linked with uart := { linked.uart with rxf := [⟨0x41, false⟩], oerr := true } }
    (∃ t, step s = .next t) ∧ s.moves.head? ≠ some .rst ∧ s.uart.rxf = ⟨0x41, false⟩ :: [] ∧ s.uart.oerr = true :=
  ⟨⟨_, rfl⟩, by decide⟩

theorem test_witness_TransmittedBytesKeepTheirOrder :
    (∃ t, step { sending with cmds := [], moves := [], seq := .pTx } = .next t ∧ t.strobe = some (.txWrite 0x48))
      ∧ ∃ t, step linked = .next t ∧ t.strobe = none :=
  ⟨⟨_, rfl, by decide⟩, _, rfl, by decide⟩

theorem test_witness_RstResetsTheBlock :
    linked.cfg.ok = true ∧ (scheduled [.rst, .block] { linked with seq := .pRxloop }).moves = .rst :: [.block] :=
  ⟨by decide, rfl⟩

/-- The machine's invariant holds in a state with both pins bound, and a step goes on from there (StepKeepsInv,
NoErrorStopsTheBlock). -/
theorem test_witness_StepKeepsInv : MachineInv linked ∧ ∃ t, step linked = .next t := by
  refine ⟨⟨by decide, rfl, by unfold ShapeInv; decide, by unfold RegisterInv; decide, ?_⟩, _, rfl⟩
  unfold UartInv; decide

theorem test_witness_ConfigurationIsFixedAndChecked :
    ({ Config.ref with fClk := 16000000 } : Config).ok = false
      ∧ (16000000 ∉ Config.ref.supportedFreqs) ∧ (∀ r ∈ Config.ref.freqTable, r.freq ≠ 16000000)
      ∧ ∃ t, step bench = .next t := ⟨by decide, by decide, by decide, _, rfl⟩

end Sys2Proof.Tests
end

section
/-! PROOF. The scope's statements (spec/00_scope.md): a configuration is checked and never changes (R7 to R9), the
block's step at an open port (R15, R110), and the steps of the environment (R14, R269, R272). -/

namespace Sys2Proof.Machine

/-! ## The configuration -/

/-- R9: F_CLK is one of the supported frequencies, and the table has its row. -/
theorem clock_supported_of_ok {c : Config} (h : c.ok = true) :
    c.fClk ∈ c.supportedFreqs ∧ ∃ r ∈ c.freqTable, r.freq = c.fClk := by
  obtain ⟨-, -, hmem, hrow, -⟩ := of_decide_eq_true h
  obtain ⟨r, hr, hf⟩ := List.find?_isSome.mp hrow
  exact ⟨hmem, r, hr, beq_iff_eq.mp hf⟩

theorem BlockCase.keeps_cfg {s t : State} (h : BlockCase s t) : t.cfg = s.cfg := by
  cases h with
  | run w ws i hs hc hi hw hd ht => exact (exec_keeps ht).1
  | rest hs hc hi hw ht => rw [ht]
  | drop w ws c hs hc hi hw hd ht => simp [ht]
  | enter hs hc hi ht => simp [ht]
  | _ hs ht => simp [ht]

theorem envMove_keeps_cfg (m : Move) (s : State) : (envMove m s).cfg = s.cfg := by
  by_cases hm : m = .rst
  · subst hm; rfl
  · exact (envMove_keeps hm s).1

/-- R7: the configuration is fixed along every step, `rst` included. -/
theorem step_keeps_cfg {s t : State} (h : step s = .next t) : t.cfg = s.cfg := by
  obtain ⟨m, ms, -, -, rfl⟩ | ⟨-, hb⟩ := step_cases h
  · simp [envMove_keeps_cfg]
  · simpa using hb.keeps_cfg

/-! ## The environment's steps -/

variable {s : State}

theorem envArrive_uart_room (hc : s.cfg.uartEnv = .reference) (hu : s.uctl.uartEn = true)
    (hr : s.uctl.rxEn = true) (ho : s.uart.oerr = false) (hl : s.uart.rxf.length < s.cfg.rxfDepth)
    (b : Byte) (fe : Bool) : (envArrive b fe s).uart = { s.uart with rxf := s.uart.rxf ++ [⟨b, fe⟩] } := by
  simp [envArrive, hc, hu, hr, ho, hl]

theorem envArrive_uart_full (hc : s.cfg.uartEnv = .reference) (hu : s.uctl.uartEn = true)
    (hr : s.uctl.rxEn = true) (ho : s.uart.oerr = false) (hl : s.cfg.rxfDepth ≤ s.uart.rxf.length)
    (b : Byte) (fe : Bool) : (envArrive b fe s).uart = { s.uart with oerr := true } := by
  simp [envArrive, hc, hu, hr, ho, Nat.not_lt.mpr hl]

/-- An arrival the receiver does not take: no reference environment, an enable off, or an overrun standing. -/
theorem envArrive_uart_ignored
    (h : s.cfg.uartEnv = .contract ∨ s.uctl.uartEn = false ∨ s.uctl.rxEn = false ∨ s.uart.oerr = true)
    (b : Byte) (fe : Bool) : (envArrive b fe s).uart = s.uart := by
  rcases h with h | h | h | h <;> simp [envArrive, h]

theorem envSent_uart_nil (h : s.uart.txh = []) : (envSent s).uart = s.uart := by simp [envSent, h]

theorem envSent_uart_cons {b : Byte} {rest : List Byte} (h : s.uart.txh = b :: rest) :
    (envSent s).uart = { s.uart with txh := rest, lineTx := s.uart.lineTx ++ [b] } := by
  simp [envSent, h]

theorem envDeliver_uart_contract (h : s.cfg.uartEnv = .contract) (b : Byte) (fe : Bool) :
    (envDeliver b fe s).uart = { s.uart with rxf := s.uart.rxf ++ [⟨b, fe⟩] } := by simp [envDeliver, h]

theorem envOverrun_uart_contract (h : s.cfg.uartEnv = .contract) :
    (envOverrun s).uart = { s.uart with oerr := true } := by simp [envOverrun, h]

theorem envTxLevel_uart_contract (h : s.cfg.uartEnv = .contract) (v : Bool) :
    (envTxLevel v s).uart = { s.uart with txLevel := v } := by simp [envTxLevel, h]

/-- A contract peripheral's own moves are not available in the reference environment (notes/assumptions/5.md). -/
theorem envMove_uart_of_contract_move {m : Move} (h : s.cfg.uartEnv = .reference)
    (hm : (∃ b fe, m = .deliver b fe) ∨ m = .overrun ∨ ∃ v, m = .txReady v) : (envMove m s).uart = s.uart := by
  obtain ⟨b, fe, rfl⟩ | rfl | ⟨v, rfl⟩ := hm
  · simp [envMove, envDeliver, h]
  · simp [envMove, envOverrun, h]
  · simp [envMove, envTxLevel, h]

/-- The peripheral's steps change the peripheral alone; the tick and `rst` are the two that reach into the block. -/
theorem envMove_changes_uart {m : Move} (hr : m ≠ .rst) (ht : m ≠ .tick) (s : State) :
    envMove m s = { s with uart := (envMove m s).uart } := by
  cases m with
  | rst => exact absurd rfl hr
  | tick => exact absurd rfl ht
  | block => rfl
  | arrive b fe =>
    simp only [envMove, envArrive]
    split
    · split
      · rfl
      · split <;> rfl
    · rfl
  | sent => simp only [envMove, envSent]; split <;> rfl
  | deliver b fe => simp only [envMove, envDeliver]; split <;> rfl
  | overrun => simp only [envMove, envOverrun]; split <;> rfl
  | txReady v => simp only [envMove, envTxLevel]; split <;> rfl

theorem envMove_tickPending {m : Move} (hr : m ≠ .rst) (ht : m ≠ .tick) (s : State) :
    (envMove m s).tickPending = s.tickPending := by rw [envMove_changes_uart hr ht]

theorem envMove_frame {m : Move} (hr : m ≠ .rst) (s : State) :
    envMove m s = { s with uart := (envMove m s).uart, tickPending := (envMove m s).tickPending } := by
  by_cases ht : m = .tick
  · subst ht; rfl
  · rw [envMove_tickPending hr ht]; exact envMove_changes_uart hr ht s

end Sys2Proof.Machine
end

section
open Sys2Proof Sys2Proof.Machine

/-- Settles O5: acceptance of a word (`step_accepts`), the word being a legal one. -/
theorem stepRunsTheDecodedCommand : Obligations.StepRunsTheDecodedCommand := by
  intro s w rest i ha hd
  rw [step_accepts ha, hd]

/-- Settles O52: the scheduled step is `envMove` on the state with its turn used up, so each clause is that move's
equation. -/
theorem environmentStepsLeaveTheBlock : Obligations.EnvironmentStepsLeaveTheBlock := by
  intro s m ms ho hs hb hr
  refine ⟨envMove m (beginStep s), step_env ho hs hb, envMove_frame hr _, ?tick, fun ht => ?other, ?arrive, ?sent,
    fun hc => ⟨?deliver, ?overrun, ?txReady⟩, fun hc hm => ?unavailable⟩
  case tick => rintro rfl; exact ⟨rfl, rfl⟩
  case other => simp [envMove_tickPending hr ht]
  case arrive =>
    rintro b fe rfl
    refine ⟨fun hc hu hx hv => ⟨fun hl => ?room, fun hl => ?full⟩, fun h => ?ignored⟩
    case room => exact envArrive_uart_room (s := beginStep s) hc hu hx hv hl b fe
    case full => exact envArrive_uart_full (s := beginStep s) hc hu hx hv hl b fe
    case ignored => exact envArrive_uart_ignored (s := beginStep s) h b fe
  case sent =>
    rintro rfl
    exact ⟨fun h => envSent_uart_nil (s := beginStep s) h, fun b rest h => envSent_uart_cons (s := beginStep s) h⟩
  case deliver => rintro b fe rfl; exact envDeliver_uart_contract (s := beginStep s) hc b fe
  case overrun => rintro rfl; exact envOverrun_uart_contract (s := beginStep s) hc
  case txReady => rintro v rfl; exact envTxLevel_uart_contract (s := beginStep s) hc v
  case unavailable => exact envMove_uart_of_contract_move (s := beginStep s) hc hm

/-- Settles O60: the step's own check, the constraints R9 names, and `step_keeps_cfg`. -/
theorem configurationIsFixedAndChecked : Obligations.ConfigurationIsFixedAndChecked := by
  refine ⟨fun s => step_of_not_ok, fun c hbad => ?_, fun s t => step_keeps_cfg⟩
  by_contra hok
  obtain ⟨hmem, r, hr, hf⟩ := clock_supported_of_ok (Bool.eq_true_of_not_eq_false hok)
  rcases hbad with hbad | hbad
  · exact hbad hmem
  · exact hbad r hr hf

end

section
/-! PROOF. What a command can do, said once: the inversion lemma of `exec` (R103), beside that of a step. -/

namespace Sys2Proof.Machine

/-- What a command that answers t does (R103): each of its branches, with the operands that lead there. -/
inductive ExecCase (i : Instr) (s t : State) : Prop where
  /-- dropped (R246) -/
  | drop (c : Cause) (ht : t = dropCommand c s)
  /-- only a response: NOP, a null pin, a read of what the block holds, a SERINIT that fails -/
  | answer (r : Word) (ht : t = complete r s)
  /-- a read of an input that is unconstrained, which uses up a draw (R273) -/
  | answerDrawn (r : Word) (ht : t = complete r (drawn s))
  /-- CRITENT, CRITEXIT -/
  | gie (r : Word) (v : Bool) (ht : t = complete r (setGie v s))
  | pindir (p : PinId) (d : PinDescriptor) (out : Bool) (hi : i = .pindir p out)
      (ht : t = complete 0 (pinDirection d out s))
  | pinwr (p : PinId) (d : PinDescriptor) (level : Bool) (hi : i = .pinwr p level)
      (ht : t = complete 0 (pinLatch d level s))
  | pinana (p : PinId) (d : PinDescriptor) (ana : Bool) (hi : i = .pinana p ana)
      (ht : t = complete 0 (pinAnalog d ana s))
  | tmrinit (hi : i = .tmrinit) (ht : t = complete 0 { s with
      tpre := s.cfg.prescale, ictl := { s.ictl with tickIe := true }, tmrms := 0, tmrus := 0
      stat := { s.stat with tmrRun := true } })
  /-- the body of TMRTICK, in interrupt context only (R153) -/
  | tick (hi : i = .tmrtick) (hc : s.ctx = .int) (ht : t = timerTick s)
  | serinit (rc tx : PinId) (n d : Nat) (hi : i = .serinit rc tx) (hrc : pinOk s.cfg rc = true)
      (htx : pinOk s.cfg tx = true) (hsel : brgSelect s.cfg s.arg.toNat = some (n, d))
      (ht : t = complete (BitVec.ofNat 32 (achieved s.cfg n d)) (serialSetup n d rc tx s))
  | serproc (hi : i = .serproc) (ht : t = { s with procOwner := .bg, seq := .pEnter })
  | stb (a : Addr) (v : Byte) (r : Reg) (hi : i = .stb a v) (hr : regAt s.cfg a = some r)
      (ht : t = complete 0 (writeReg s r v))

theorem afterRead_eq (s : State) (r : Reg) : afterRead s r = s ∨ afterRead s r = drawn s := by
  unfold afterRead; split <;> simp

theorem afterPinRead_eq (s : State) (d : PinDescriptor) : afterPinRead s d = s ∨ afterPinRead s d = drawn s := by
  unfold afterPinRead; split <;> simp

/-- The inversion lemma of a command. -/
theorem exec_cases {i : Instr} {s t : State} (h : exec i s = .next t) : ExecCase i s t := by
  cases i with
  | nop => injection h with h; exact .answer 0 h.symm
  | pindir p out =>
    injection h with h
    split at h
    · exact .drop _ h.symm
    · exact .answer 0 h.symm
    · exact .pindir p _ out rfl h.symm
  | pinrd p =>
    injection h with h
    split at h
    · exact .drop _ h.symm
    · exact .answer 0 h.symm
    · rename_i n d _
      rcases afterPinRead_eq s d with hu | hu
      · exact .answer _ (by rw [← h, hu])
      · exact .answerDrawn _ (by rw [← h, hu])
  | pinwr p level =>
    injection h with h
    split at h
    · exact .drop _ h.symm
    · exact .answer 0 h.symm
    · exact .pinwr p _ level rfl h.symm
  | pinana p ana =>
    injection h with h
    split at h
    · exact .drop _ h.symm
    · exact .answer 0 h.symm
    · exact .pinana p _ ana rfl h.symm
  | tmrinit => injection h with h; exact .tmrinit rfl h.symm
  | tmrtick =>
    injection h with h
    split at h
    · exact .tick rfl ‹_› h.symm
    · exact .drop _ h.symm
  | serinit rc tx =>
    injection h with h
    split at h
    · rename_i hp
      obtain ⟨hrc, htx⟩ := Bool.and_eq_true_iff.mp hp
      split at h
      · exact .answer 0 h.symm
      · exact .serinit rc tx _ _ rfl hrc htx ‹_› h.symm
    · exact .drop _ h.symm
  | serproc => injection h with h; exact .serproc rfl h.symm
  | critent => injection h with h; exact .gie _ _ h.symm
  | critexit v => injection h with h; exact .gie _ _ h.symm
  | ldb a =>
    injection h with h
    split at h
    · exact .drop _ h.symm
    · rename_i r _
      rcases afterRead_eq s r with hu | hu
      · exact .answer _ (by rw [← h, hu])
      · exact .answerDrawn _ (by rw [← h, hu])
  | stb a v =>
    injection h with h
    split at h
    · exact .drop _ h.symm
    · exact .stb a v _ rfl ‹_› h.symm

end Sys2Proof.Machine
end

section
/-! PROOF. The machine's invariant: each part of it is kept by every command, by every case of the block, and by every
move of the environment (spec/10_state.md R23, R26, R39, R47; R85; R257, R269). -/

namespace Sys2Proof.Machine

/-! ## The control state (R23, R257) -/

/-- The four micro-steps of SERPROC after S_P_ENTER, in which the control state obeys one clause. -/
def Seq.inSerproc (q : Seq) : Prop := q = .pRxchk ∨ q = .pRxloop ∨ q = .pTx ∨ q = .pExit

theorem controlInv_inSerproc {s : State} (h : s.seq.inSerproc) :
    ControlInv s ↔ s.procOwner = s.ctx ∧ s.ictl.gie = false ∧ (s.ctx = .int → s.savedGie = false) := by
  rcases h with h | h | h | h <;> simp [ControlInv, h]

theorem microRxchk_seq (s : State) : (microRxchk s).seq.inSerproc := by
  unfold microRxchk
  split
  · simp [Seq.inSerproc]
  · split <;> simp [Seq.inSerproc]

theorem microRxloop_seq {s : State} (h : s.seq = .pRxloop) : (microRxloop s).seq.inSerproc := by
  unfold microRxloop
  split <;> simp [Seq.inSerproc, h]

theorem microTx_seq (s : State) : (microTx s).seq = .pExit := rfl

theorem microExit_seq (s : State) :
    (s.procOwner = .int ∧ (microExit s).seq = .iRet) ∨ (s.procOwner = .bg ∧ (microExit s).seq = .idle) := by
  unfold microExit
  cases h : s.procOwner <;> simp [h]

theorem microExit_gie (s : State) : (microExit s).ictl.gie = s.savedGie := by
  unfold microExit
  cases h : s.procOwner <;> simp [h]

/-- A micro-step that moves within SERPROC, and keeps what the clause speaks of. -/
theorem controlInv_of_inSerproc {s t : State} (h : ControlInv s) (hs : s.seq.inSerproc) (ht : t.seq.inSerproc)
    (hk : t.procOwner = s.procOwner ∧ t.ctx = s.ctx ∧ t.ictl = s.ictl ∧ t.savedGie = s.savedGie) : ControlInv t := by
  obtain ⟨hp, hc, hi, hg⟩ := hk
  rw [controlInv_inSerproc ht, hp, hc, hi, hg]
  exact (controlInv_inSerproc hs).mp h

/-- A command leaves the sequencer idle, or at SERPROC's first micro-step. -/
theorem exec_keeps_controlInv {i : Instr} {s t : State} (h : exec i s = .next t) (hs : s.seq = .idle)
    (hc : s.ctx = .bg) : ControlInv t := by
  cases exec_cases h with
  | tick _ hx _ => simp [hc] at hx
  | serproc _ ht => simp [ControlInv, ht, hc]
  | _ => rename_i ht; simp [ControlInv, ht, hs, hc]

theorem BlockCase.keeps_controlInv {s t : State} (h : BlockCase s t) (hi : ControlInv s) : ControlInv t := by
  cases h with
  | rest _ _ _ _ ht => rwa [ht]
  | drop w ws c hs hc _ _ _ ht => simp [ControlInv, ht, hs, hc]
  | run w ws i hs hc _ _ _ ht => exact exec_keeps_controlInv ht hs hc
  | enter _ _ _ ht => simp [ControlInv, ht]
  | tick hs ht =>
    simp only [ControlInv, hs] at hi
    simp [ControlInv, ht, tickStage, apply_ite, hi]
  | pEnter hs ht =>
    simp only [ControlInv, hs] at hi
    subst ht
    rw [controlInv_inSerproc (.inl rfl)]
    exact ⟨hi.1, rfl, hi.2⟩
  | pRxchk hs ht => subst ht; exact controlInv_of_inSerproc hi (.inl hs) (microRxchk_seq s) (by simp)
  | pRxloop hs ht => subst ht; exact controlInv_of_inSerproc hi (.inr (.inl hs)) (microRxloop_seq hs) (by simp)
  | pTx hs ht =>
    subst ht
    exact controlInv_of_inSerproc hi (.inr (.inr (.inl hs))) (.inr (.inr (.inr (microTx_seq s)))) (by simp)
  | pExit hs ht =>
    obtain ⟨hp, -, hg⟩ := (controlInv_inSerproc (.inr (.inr (.inr hs)))).mp hi
    subst ht
    rcases microExit_seq s with ⟨ho, hq⟩ | ⟨ho, hq⟩
    · have hc : s.ctx = .int := hp.symm.trans ho
      simp [ControlInv, hq, hc, microExit_gie, hg hc]
    · simp [ControlInv, hq, ← hp, ho]
  | ret _ ht => simp [ControlInv, ht]

/-! ## The shape of the registers and of memory (R30 to R34, R70, R85) -/

theorem shapeInv_congr {s t : State} (h : ShapeInv s)
    (hk : t.cfg = s.cfg ∧ t.dir = s.dir ∧ t.ansel = s.ansel ∧ t.lat = s.lat ∧ t.route = s.route ∧ t.mem = s.mem) :
    ShapeInv t := by
  obtain ⟨hc, hd, ha, hl, hr, hm⟩ := hk
  simpa only [ShapeInv, hc, hd, ha, hl, hr, hm] using h

/-- The addresses of the two queue buffers (R71). -/
def inBuffers (c : Config) (a : Nat) : Prop :=
  (0x100 ≤ a ∧ a < 0x100 + c.rxCap) ∨ (0x200 ≤ a ∧ a < 0x200 + c.txCap)

theorem shapeInv_write {s : State} (h : ShapeInv s) {a : Nat} (ha : inBuffers s.cfg a) (v : Byte) :
    ShapeInv { s with mem := s.mem.write a v } := by
  obtain ⟨hd, han, hl, hr, hw, hm⟩ := h
  refine ⟨hd, han, hl, hr, Memory.write_wf hw a v, fun c hc => ?_⟩
  rcases Memory.mem_write hc with rfl | hc
  · exact ha
  · exact hm c hc

theorem shapeInv_setRxqbuf {s : State} (h : ShapeInv s) {k : Nat} (hk : k < s.cfg.rxCap) (v : Byte) :
    ShapeInv (setRxqbuf k v s) :=
  shapeInv_write h (.inl ⟨by simp [rxBufAddr], by simp [rxBufAddr, hk]⟩) v

theorem shapeInv_setTxqbuf {s : State} (h : ShapeInv s) {k : Nat} (hk : k < s.cfg.txCap) (v : Byte) :
    ShapeInv (setTxqbuf k v s) :=
  shapeInv_write h (.inr ⟨by simp [txBufAddr], by simp [txBufAddr, hk]⟩) v

theorem shapeInv_fill {s : State} (h : ShapeInv s) (v : Byte) {n : Nat} (hn : n ≤ s.cfg.rxCap) :
    ShapeInv { s with mem := s.mem.fill (rxBufAddr 0) n v } := by
  induction n with
  | zero => exact h
  | succ n ih => exact shapeInv_write (ih (by omega)) (.inl (by simp [rxBufAddr]; omega)) v

theorem shapeInv_clearRxqbuf {s : State} (h : ShapeInv s) : ShapeInv (clearRxqbuf s) := shapeInv_fill h 0 le_rfl

theorem shapeInv_pinDirection {s : State} (h : ShapeInv s) (d : PinDescriptor) (out : Bool) :
    ShapeInv (pinDirection d out s) := by
  unfold pinDirection
  split
  · simpa [ShapeInv, groupWrite] using h
  · exact h

theorem shapeInv_pinLatch {s : State} (h : ShapeInv s) (d : PinDescriptor) (level : Bool) :
    ShapeInv (pinLatch d level s) := by
  unfold pinLatch
  split
  · simpa [ShapeInv, groupWrite] using h
  · exact h

theorem shapeInv_pinAnalog {s : State} (h : ShapeInv s) (d : PinDescriptor) (ana : Bool) :
    ShapeInv (pinAnalog d ana s) := by
  unfold pinAnalog
  split
  · simpa [ShapeInv, groupWrite] using h
  · exact h

theorem shapeInv_writeReg {s : State} (h : ShapeInv s) {r : Reg} (hr : r.within s.cfg) (v : Byte) :
    ShapeInv (writeReg s r v) := by
  cases r with
  | rxqbuf k => exact shapeInv_setRxqbuf h hr v
  | txqbuf k => exact shapeInv_setTxqbuf h hr v
  | _ => exact h

theorem shapeInv_bindRx {s : State} (h : ShapeInv s) (rc : PinId) : ShapeInv (bindRx rc s) := by
  unfold bindRx bindRxSteps
  split
  · rename_i d _
    have hc : ShapeInv (clearRxqbuf { s with rcbound := rc, rxqlen := 0 }) := shapeInv_clearRxqbuf h
    exact shapeInv_pinDirection (shapeInv_pinAnalog hc d false) d false
  · exact h

theorem shapeInv_bindTx {s : State} (h : ShapeInv s) (tx : PinId) : ShapeInv (bindTx tx s) := by
  unfold bindTx bindTxSteps
  split
  · rename_i n d _
    split
    · have hp : ShapeInv (pinDirection d true (pinAnalog d false { s with txbound := tx })) :=
        shapeInv_pinDirection (shapeInv_pinAnalog (s := { s with txbound := tx }) h d false) d true
      simpa [ShapeInv, groupWrite] using hp
    · exact h
  · exact h

theorem shapeInv_serialSetup {s : State} (h : ShapeInv s) (n d : Nat) (rc tx : PinId) :
    ShapeInv (serialSetup n d rc tx s) := by
  have hb : ShapeInv (programBrg n d s) := h
  rw [serialSetup_eq]
  exact shapeInv_bindTx (shapeInv_bindRx hb rc) tx

theorem shapeInv_takeByte {s : State} (h : ShapeInv s) (e : RxEntry) : ShapeInv (takeByte e s) := by
  unfold takeByte
  split
  · exact h
  · split
    · exact shapeInv_setRxqbuf (s := { s with rxqlen := s.rxqlen + 1 }) h ‹_› e.byte
    · exact h

theorem shapeInv_microRxloop {s : State} (h : ShapeInv s) : ShapeInv (microRxloop s) := by
  unfold microRxloop
  split
  · exact h
  · exact shapeInv_takeByte (s := envPop s) h _

theorem exec_keeps_shapeInv {i : Instr} {s t : State} (h : exec i s = .next t) (hs : ShapeInv s) : ShapeInv t := by
  cases exec_cases h with
  | pindir p d out hi ht => subst ht; exact shapeInv_pinDirection hs d out
  | pinwr p d level hi ht => subst ht; exact shapeInv_pinLatch hs d level
  | pinana p d ana hi ht => subst ht; exact shapeInv_pinAnalog hs d ana
  | serinit rc tx n d hi hrc htx hsel ht => subst ht; exact shapeInv_serialSetup hs n d rc tx
  | stb a v r hi hr ht => subst ht; exact shapeInv_writeReg hs (regAt_addr hr).2 v
  | _ => rename_i ht; exact shapeInv_congr hs (by simp [ht])

theorem BlockCase.keeps_shapeInv {s t : State} (h : BlockCase s t) (hi : ShapeInv s) : ShapeInv t := by
  cases h with
  | run w ws i hs hc hq hw hd ht => exact exec_keeps_shapeInv ht hi
  | pRxloop hs ht => subst ht; exact shapeInv_microRxloop hi
  | _ => rename_i ht; exact shapeInv_congr hi (by simp [ht])

/-! ## The fields that name things (R26, R39, R47) -/

theorem registerInv_congr {s t : State} (h : RegisterInv s)
    (hk : t.cfg = s.cfg ∧ t.uctl.tier = s.uctl.tier ∧ t.stat.cmderr = s.stat.cmderr ∧ t.stat.cause = s.stat.cause
      ∧ t.rcbound = s.rcbound ∧ t.txbound = s.txbound) : RegisterInv t := by
  obtain ⟨hc, hu, he, ha, hr, hx⟩ := hk
  simpa only [RegisterInv, hc, hu, he, ha, hr, hx] using h

theorem causeCode_range (c : Cause) : causeCode c ≠ 0 ∧ (causeCode c).toNat ≤ 5 := by cases c <;> decide

/-- A drop leaves CMDERR 1, with the cause of the first drop since reset (R246, R247). -/
theorem record_cause_range {t : Stat} (hz : t.cmderr = false ↔ t.cause = 0) (hle : t.cause.toNat ≤ 5) (c : Cause) :
    (t.record c).cause ≠ 0 ∧ (t.record c).cause.toNat ≤ 5 := by
  cases he : t.cmderr with
  | false => simpa [Stat.record, he] using causeCode_range c
  | true => exact ⟨fun h0 => by simp_all [Stat.record], by simpa [Stat.record, he] using hle⟩

theorem registerInv_dropCommand {s : State} (h : RegisterInv s) (c : Cause) : RegisterInv (dropCommand c s) := by
  obtain ⟨ht, hz, hle, hr, hx⟩ := h
  obtain ⟨hne, hle'⟩ := record_cause_range hz hle c
  exact ⟨by simpa using ht, by simpa [Stat.record] using hne, by simpa using hle', by simpa using hr, by simpa using hx⟩

theorem firstTier_index_lt {f b k i d : Nat} {ts : List Tier} (h : firstTier f b k ts = some (i, d)) :
    i < k + ts.length := by
  induction ts generalizing k with
  | nil => simp [firstTier] at h
  | cons t ts ih =>
    unfold firstTier at h
    split at h
    · simp only [Option.some.injEq, Prod.mk.injEq] at h
      simp; omega
    · have := ih h
      simp; omega

theorem brgSelect_index_lt {c : Config} {b i d : Nat} (h : brgSelect c b = some (i, d)) : i < c.tiers.length := by
  unfold brgSelect at h
  split at h
  · simp at h
  · simpa using firstTier_index_lt h

theorem tiers_length_of_ok {c : Config} (h : c.ok = true) : 1 ≤ c.tiers.length ∧ c.tiers.length ≤ 4 := by
  simp only [Config.ok, decide_eq_true_eq] at h
  omega

theorem bindRx_rcbound (rc : PinId) (s : State) : (bindRx rc s).rcbound = rc := by
  unfold bindRx bindRxSteps
  split <;> simp

theorem bindRx_tier (rc : PinId) (s : State) : (bindRx rc s).uctl.tier = s.uctl.tier := by
  unfold bindRx bindRxSteps
  split <;> simp

theorem bindTx_tier (tx : PinId) (s : State) : (bindTx tx s).uctl.tier = s.uctl.tier := by
  unfold bindTx bindTxSteps
  split
  · split <;> simp
  · simp

theorem hasRoute_of_pinOperand {c : Config} {p : PinId} {i : Nat} {d : PinDescriptor} (h : pinOperand c p = .pin i d)
    (hr : d.route = true) : c.hasRoute p.toNat = true := by
  unfold pinOperand at h
  split at h
  · simp at h
  · split at h
    · rename_i d' hd
      simp only [PinOperand.pin.injEq] at h
      simp [Config.hasRoute, hd, h.2, hr]
    · simp at h

/-- TXBOUND after the binding: null, or a pin that can transmit (R176). -/
theorem bindTx_txbound (tx : PinId) (s : State) :
    (bindTx tx s).txbound = nullPin ∨ s.cfg.hasRoute (bindTx tx s).txbound.toNat = true := by
  unfold bindTx bindTxSteps
  split
  · split
    · right; simpa using hasRoute_of_pinOperand ‹_› ‹_›
    · simp
  · simp

theorem pinOk_iff {c : Config} {p : PinId} : pinOk c p = true ↔ p = nullPin ∨ p.toNat < c.nPins := by
  unfold pinOk pinOperand
  by_cases hp : p = nullPin
  · simp [hp]
  · cases hd : c.pinMap[p.toNat]? with
    | none => simpa [hp] using List.getElem?_eq_none_iff.mp hd
    | some d => simpa [hp] using (List.getElem?_eq_some_iff.mp hd).1

theorem serialSetup_tier (n d : Nat) (rc tx : PinId) (s : State) :
    (serialSetup n d rc tx s).uctl.tier = BitVec.ofNat 2 n := by
  simp [serialSetup_eq, bindTx_tier, bindRx_tier]

theorem serialSetup_rcbound (n d : Nat) (rc tx : PinId) (s : State) : (serialSetup n d rc tx s).rcbound = rc := by
  simp [serialSetup_eq, bindRx_rcbound]

theorem serialSetup_txbound (n d : Nat) (rc tx : PinId) (s : State) :
    (serialSetup n d rc tx s).txbound = nullPin
      ∨ s.cfg.hasRoute (serialSetup n d rc tx s).txbound.toNat = true := by
  simpa [serialSetup_eq] using bindTx_txbound tx (bindRx rc (programBrg n d s))

theorem registerInv_serialSetup {s : State} (h : RegisterInv s) (ho : s.cfg.ok = true) {n d : Nat} {rc tx : PinId}
    (hrc : pinOk s.cfg rc = true) (hsel : brgSelect s.cfg s.arg.toNat = some (n, d)) :
    RegisterInv (serialSetup n d rc tx s) := by
  obtain ⟨-, hz, hle, -, -⟩ := h
  have hn := brgSelect_index_lt hsel
  have h4 := (tiers_length_of_ok ho).2
  refine ⟨?_, by simpa using hz, by simpa using hle, ?_, by simpa using serialSetup_txbound n d rc tx s⟩
  · simp [serialSetup_tier]; omega
  · simpa [serialSetup_rcbound] using pinOk_iff.mp hrc

theorem exec_keeps_registerInv {i : Instr} {s t : State} (h : exec i s = .next t) (ho : s.cfg.ok = true)
    (hs : RegisterInv s) : RegisterInv t := by
  cases exec_cases h with
  | drop c ht => subst ht; exact registerInv_dropCommand hs c
  | serinit rc tx n d hi hrc htx hsel ht => subst ht; exact registerInv_serialSetup hs ho hrc hsel
  | _ => rename_i ht; exact registerInv_congr hs (by simp [ht])

/-- S_P_RXCHK writes RX_EN of UCTL, and not its tier (R193). -/
theorem microRxchk_tier (s : State) : (microRxchk s).uctl.tier = s.uctl.tier := by
  unfold microRxchk
  split
  · rfl
  · split <;> simp

theorem BlockCase.keeps_registerInv {s t : State} (h : BlockCase s t) (ho : s.cfg.ok = true) (hi : RegisterInv s) :
    RegisterInv t := by
  cases h with
  | run w ws i hs hc hq hw hd ht => exact exec_keeps_registerInv ht ho hi
  | drop w ws c hs hc hq hw hd ht => subst ht; exact registerInv_dropCommand (s := { s with cmds := ws }) hi c
  | pRxchk hs ht => exact registerInv_congr hi (by simp [ht, microRxchk_tier])
  | _ => rename_i ht; exact registerInv_congr hi (by simp [ht])

/-! ## The reference UART environment (R269) -/

/-- What the environment holds may only go down in number. -/
theorem uartInv_of_le {s t : State} (h : UartInv s)
    (hk : t.cfg = s.cfg ∧ t.uart.rxf.length ≤ s.uart.rxf.length ∧ t.uart.txh.length ≤ s.uart.txh.length) :
    UartInv t := by
  obtain ⟨hc, hr, ht⟩ := hk
  intro he
  rw [hc] at he ⊢
  obtain ⟨hr', ht'⟩ := h he
  exact ⟨hr.trans hr', ht.trans ht'⟩

theorem uartInv_envTxWrite {s : State} (h : UartInv s) (b : Byte) : UartInv (envTxWrite b s) := by
  intro he
  have he : s.cfg.uartEnv = .reference := he
  exact ⟨(h he).1, by simp [envTxWrite, he]⟩

theorem uartInv_transmit {s : State} (h : UartInv s) : UartInv (transmit s) := by
  unfold transmit
  split
  · exact uartInv_envTxWrite (uartInv_of_le h (by split <;> simp)) _
  · exact h

theorem uartInv_microRxchk {s : State} (h : UartInv s) : UartInv (microRxchk s) := by
  unfold microRxchk
  split
  · exact h
  · split
    · exact uartInv_of_le h (by simp; split <;> simp)
    · exact h

theorem uartInv_microRxloop {s : State} (h : UartInv s) : UartInv (microRxloop s) := by
  unfold microRxloop
  split
  · exact h
  · exact uartInv_of_le h (by simp)

theorem BlockCase.keeps_uartInv {s t : State} (h : BlockCase s t) (hi : UartInv s) : UartInv t := by
  cases h with
  | run w ws i hs hc hq hw hd ht =>
    obtain ⟨hcfg, -, -, -, -, -, hu, -⟩ := exec_keeps ht
    exact uartInv_of_le hi (by simp [hcfg, hu])
  | pRxchk hs ht => subst ht; exact uartInv_microRxchk hi
  | pRxloop hs ht => subst ht; exact uartInv_microRxloop hi
  | pTx hs ht => subst ht; exact uartInv_transmit hi
  | _ => rename_i ht; exact uartInv_of_le hi (by simp [ht])

theorem uartInv_envArrive {s : State} (h : UartInv s) (b : Byte) (fe : Bool) : UartInv (envArrive b fe s) := by
  unfold envArrive
  split
  · split
    · exact h
    · split
      · rename_i hroom
        exact fun he => ⟨by simpa using hroom, (h he).2⟩
      · exact h
  · exact h

theorem uartInv_envSent {s : State} (h : UartInv s) : UartInv (envSent s) := by
  unfold envSent
  split
  · rename_i b rest hb
    exact uartInv_of_le h (by simp [hb])
  · exact h

theorem uartInv_of_contract_move {m : Move} {s : State} (h : UartInv s)
    (hm : (∃ b fe, m = .deliver b fe) ∨ m = .overrun ∨ ∃ v, m = .txReady v) : UartInv (envMove m s) := by
  intro he
  rw [envMove_keeps_cfg] at he ⊢
  rw [envMove_uart_of_contract_move he hm]
  exact h he

/-- In the reference environment only an arrival and the line's taking a byte change what is held. -/
theorem envMove_keeps_uartInv {m : Move} (hm : m ≠ .rst) {s : State} (h : UartInv s) : UartInv (envMove m s) := by
  cases m with
  | rst => exact absurd rfl hm
  | block => exact h
  | tick => exact h
  | arrive b fe => exact uartInv_envArrive h b fe
  | sent => exact uartInv_envSent h
  | deliver b fe => exact uartInv_of_contract_move h (.inl ⟨b, fe, rfl⟩)
  | overrun => exact uartInv_of_contract_move h (.inr (.inl rfl))
  | txReady v => exact uartInv_of_contract_move h (.inr (.inr ⟨v, rfl⟩))

/-! ## The machine's invariant -/

theorem machineInv_resetAt {c : Config} (h : c.ok = true) (e : Nat) : MachineInv (State.resetAt c e) := by
  have ht := (tiers_length_of_ok h).1
  refine ⟨h, rfl, ?shape, ?registers, ?uart⟩
  case shape => simp [ShapeInv, State.resetAt, Memory.wf]
  case registers => simp [RegisterInv, State.resetAt]; omega
  case uart => simp [UartInv, State.resetAt, Uart.empty]

/-- `rst` leaves the reset state, with a contract peripheral holding what it held (R280). -/
theorem machineInv_blockReset {s : State} (h : s.cfg.ok = true) : MachineInv (blockReset s) := by
  obtain ⟨ho, hc, hs, hr, -⟩ := machineInv_resetAt h (s.epoch + 1)
  refine ⟨ho, hc, hs, hr, fun he => ?_⟩
  have he : s.cfg.uartEnv = .reference := he
  simp [blockReset, he, Uart.empty]

theorem machineInv_envMove {s : State} (h : MachineInv s) (m : Move) : MachineInv (envMove m s) := by
  by_cases hm : m = .rst
  · subst hm; exact machineInv_blockReset h.1
  · obtain ⟨ho, hc, hs, hr, hu⟩ := h
    have hk := envMove_keeps hm s
    refine ⟨by simpa [hk] using ho, by simpa [ControlInv, hk] using hc, shapeInv_congr hs (by simp [hk]),
      registerInv_congr hr (by simp [hk]), envMove_keeps_uartInv hm hu⟩

theorem BlockCase.keeps_machineInv {s t : State} (h : BlockCase s t) (hi : MachineInv s) : MachineInv t := by
  obtain ⟨ho, hc, hs, hr, hu⟩ := hi
  exact ⟨by rwa [h.keeps_cfg], h.keeps_controlInv hc, h.keeps_shapeInv hs, h.keeps_registerInv ho hr,
    h.keeps_uartInv hu⟩

end Sys2Proof.Machine
end

section
/-! PROOF. Who writes the timer's state and the bindings of the UART, and when a latch drives its line
(spec/10_state.md R25, R32 to R37, R40, R47). -/

namespace Sys2Proof.Machine

/-! ## Which command a step runs -/

/-- The block's turn at a boundary where a word that decodes to i executes. -/
theorem runsNext_of_run {s : State} (ho : s.cfg.ok = true) (hb : blockMoves s = true) {w : Word} {ws : List Word}
    {i : Instr} (hs : (beginStep s).seq = .idle) (hc : (beginStep s).ctx = .bg) (hq : irq (beginStep s) = false)
    (hw : (beginStep s).cmds = w :: ws) (hd : decode w = .ok i) : runsNext s i :=
  ⟨w, ws, ⟨ho, hb, portOpen_iff.mpr ⟨hs, hc, hq⟩, hw⟩, hd⟩

/-! ## Who writes the timer's state (R25, R36, R37) -/

theorem writeReg_counters (s : State) (r : Reg) (v : Byte) :
    ((writeReg s r v).tmrms, (writeReg s r v).tmrus) = (s.tmrms, s.tmrus)
      ∨ ∃ k, r = .tmrms k ∨ r = .tmrus k := by
  cases r with
  | tmrms k => exact .inr ⟨k, .inl rfl⟩
  | tmrus k => exact .inr ⟨k, .inr rfl⟩
  | _ => exact .inl rfl

/-- Of the commands at the port, TMRINIT and a store to one of their bytes write the counters. -/
theorem exec_counters {i : Instr} {s t : State} (h : exec i s = .next t) (hc : s.ctx = .bg) :
    (t.tmrms, t.tmrus) = (s.tmrms, s.tmrus) ∨ i = .tmrinit
      ∨ ∃ a v k, i = .stb a v ∧ (regAt s.cfg a = some (.tmrms k) ∨ regAt s.cfg a = some (.tmrus k)) := by
  cases exec_cases h with
  | tmrinit hi ht => exact .inr (.inl hi)
  | tick hi hx ht => simp [hc] at hx
  | stb a v r hi hr ht =>
    rcases writeReg_counters s r v with hk | ⟨k, hk⟩
    · exact .inl (by simpa [ht] using hk)
    · exact .inr (.inr ⟨a, v, k, hi, hk.imp (fun he => by rw [hr, he]) (fun he => by rw [hr, he])⟩)
  | _ => rename_i ht; exact .inl (by simp [ht])

theorem exec_tickPending {i : Instr} {s t : State} (h : exec i s = .next t) (hc : s.ctx = .bg) :
    t.tickPending = s.tickPending := by
  cases exec_cases h with
  | tick hi hx ht => simp [hc] at hx
  | _ => rename_i ht; simp [ht]

theorem tickStage_counters {s : State} (h : s.tickPending = false) :
    ((tickStage s).tmrms, (tickStage s).tmrus) = (s.tmrms, s.tmrus) := by
  simp [tickStage, h]

theorem tickStage_tickPending (s : State) : (tickStage s).tickPending = false := by
  cases h : s.tickPending <;> simp [tickStage, h]

/-- Who changes the counters, reset apart. -/
theorem step_counters {s t : State} (h : step s = .next t) (hr : s.moves.head? ≠ some .rst) :
    (t.tmrms, t.tmrus) = (s.tmrms, s.tmrus) ∨ (s.seq = .iTick ∧ s.tickPending = true) ∨ runsNext s .tmrinit
      ∨ ∃ a v k, runsNext s (.stb a v) ∧ (regAt s.cfg a = some (.tmrms k) ∨ regAt s.cfg a = some (.tmrus k)) := by
  obtain ⟨m, ms, hm, -, rfl⟩ | ⟨hb, hcase⟩ := step_cases h
  · have hm : m ≠ .rst := by rintro rfl; simp [hm] at hr
    exact .inl (by simp [envMove_keeps hm])
  · cases hcase with
    | run w ws i hs hc hq hw hd ht =>
      have hrun := runsNext_of_run (ok_of_step h) hb hs hc hq hw hd
      obtain heq | rfl | ⟨a, v, k, rfl, hk⟩ := exec_counters ht hc
      · exact .inl (by simpa using heq)
      · exact .inr (.inr (.inl hrun))
      · exact .inr (.inr (.inr ⟨a, v, k, hrun, by simpa using hk⟩))
    | tick hs ht =>
      cases hp : s.tickPending with
      | true => exact .inr (.inl ⟨by simpa using hs, rfl⟩)
      | false => exact .inl (by simpa [ht] using tickStage_counters (s := beginStep s) (by simpa using hp))
    | _ => rename_i ht; exact .inl (by simp [ht])

/-- Who changes TICK_PENDING, reset apart: the environment's tick sets it, the tick stage clears it. -/
theorem step_tickPending {s t : State} (h : step s = .next t) (hr : s.moves.head? ≠ some .rst) :
    t.tickPending = s.tickPending ∨ (s.moves.head? = some .tick ∧ t.tickPending = true)
      ∨ (s.seq = .iTick ∧ t.tickPending = false) := by
  obtain ⟨m, ms, hm, -, rfl⟩ | ⟨hb, hcase⟩ := step_cases h
  · have hne : m ≠ .rst := by rintro rfl; simp [hm] at hr
    by_cases htick : m = .tick
    · subst htick; exact .inr (.inl ⟨by simp [hm], rfl⟩)
    · exact .inl (by simp [envMove_tickPending hne htick])
  · cases hcase with
    | run w ws i hs hc hq hw hd ht => exact .inl (by simpa using exec_tickPending ht hc)
    | tick hs ht => exact .inr (.inr ⟨by simpa using hs, by rw [ht, tickStage_tickPending]⟩)
    | _ => rename_i ht; exact .inl (by simp [ht])

/-! ## Who binds (R40, R47, R179) -/

/-- The divisor, the tier and the bound pins. -/
def binding (s : State) : Byte × Byte × BitVec 2 × PinId × PinId :=
  (s.brgl, s.brgh, s.uctl.tier, s.rcbound, s.txbound)

theorem exec_binding {i : Instr} {s t : State} (h : exec i s = .next t) :
    binding t = binding s ∨ ∃ rc tx, i = .serinit rc tx ∧ brgSelect s.cfg s.arg.toNat ≠ none := by
  cases exec_cases h with
  | serinit rc tx n d hi hrc htx hsel ht => exact .inr ⟨rc, tx, hi, by simp [hsel]⟩
  | _ => rename_i ht; exact .inl (by simp [binding, ht])

theorem step_binding {s t : State} (h : step s = .next t) (hr : s.moves.head? ≠ some .rst) :
    binding t = binding s ∨ ∃ rc tx, runsNext s (.serinit rc tx) ∧ brgSelect s.cfg s.arg.toNat ≠ none := by
  obtain ⟨m, ms, hm, -, rfl⟩ | ⟨hb, hcase⟩ := step_cases h
  · have hm : m ≠ .rst := by rintro rfl; simp [hm] at hr
    exact .inl (by simp [binding, envMove_keeps hm])
  · cases hcase with
    | run w ws i hs hc hq hw hd ht =>
      obtain heq | ⟨rc, tx, rfl, hsel⟩ := exec_binding ht
      · exact .inl (by simpa [binding] using heq)
      · exact .inr ⟨rc, tx, runsNext_of_run (ok_of_step h) hb hs hc hq hw hd, by simpa using hsel⟩
    | pRxchk hs ht => exact .inl (by simp [binding, ht, microRxchk_tier])
    | _ => rename_i ht; exact .inl (by simp [binding, ht])

/-! ## The latch and the line (R32, R133) -/

theorem pinOperand_of_namesPin {s : State} {p : PinId} {d : PinDescriptor} (h : namesPin s p d) :
    pinOperand s.cfg p = .pin p.toNat d := by
  simp [pinOperand, h.1, h.2]

theorem exec_pindir_of_namesPin {s : State} {p : PinId} {d : PinDescriptor} (h : namesPin s p d) (out : Bool) :
    exec (.pindir p out) s = .next (complete 0 (pinDirection d out s)) := by
  simp [exec, execPindir, pinOperand_of_namesPin h]

theorem exec_pinwr_of_namesPin {s : State} {p : PinId} {d : PinDescriptor} (h : namesPin s p d) (level : Bool) :
    exec (.pinwr p level) s = .next (complete 0 (pinLatch d level s)) := by
  simp [exec, execPinwr, pinOperand_of_namesPin h]

theorem descriptorOk_of_ok {c : Config} (h : c.ok = true) {d : PinDescriptor} (hd : d ∈ c.pinMap) :
    c.descriptorOk d = true := by
  obtain ⟨-, -, -, -, -, -, -, -, -, hall, -⟩ := of_decide_eq_true h
  exact hall d hd

/-- The handles of a pin of a configuration are port indexes (R28). -/
theorem handles_lt_of_namesPin {s : State} (ho : s.cfg.ok = true) {p : PinId} {d : PinDescriptor}
    (h : namesPin s p d) {k : Nat} (hk : d.dir = some k ∨ d.port = some k ∨ d.ansel = some k ∨ d.lat = some k) :
    k < s.cfg.nPorts := by
  have hd := descriptorOk_of_ok ho (List.mem_of_getElem? h.2)
  simp only [Config.descriptorOk, Config.handleOk, Bool.and_eq_true] at hd
  rcases hk with hk | hk | hk | hk <;> simp_all

theorem groupRead_groupWrite_same {l : List Byte} {k : Nat} (h : k < l.length) (v : Byte) :
    groupRead (groupWrite l k v) k = v := by
  simp [groupRead, groupWrite, h]

theorem bitsSet_putBits {r m : Byte} (h : m ≠ 0) (v : Bool) : bitsSet (putBits r m v) m = v := by
  have hset : (r ||| m) &&& m = m := by ext i hi; simpa using Or.inr
  have hclear : (r &&& ~~~m) &&& m = 0 := by ext i hi; simp
  cases v with
  | true => simpa [bitsSet, putBits, hset] using h
  | false => simp [bitsSet, putBits, hclear]

theorem pinDirection_dir {d : PinDescriptor} {k : Nat} (h : d.dir = some k) (out : Bool) (s : State) :
    (pinDirection d out s).dir = groupWrite s.dir k (putBits (groupRead s.dir k) d.mask (!out)) := by
  simp [pinDirection, h]

theorem pinLatch_lat {d : PinDescriptor} {j : Nat} (h : d.lat = some j) (level : Bool) (s : State) :
    (pinLatch d level s).lat = groupWrite s.lat j (putBits (groupRead s.lat j) d.mask level) := by
  simp [pinLatch, h]

/-- The routing output, as a function of the routing registers. -/
theorem routeO_congr {s t : State} (hc : t.cfg = s.cfg) (hr : t.route = s.route) :
    (outputs t).routeO = (outputs s).routeO := by
  simp [outputs, hc, hr]

/-- An input pin: its latch does not reach the line. -/
theorem padDrive_of_input {c : Config} {s : State} {n k : Nat} {d : PinDescriptor} (hk : d.dir = some k)
    (hin : bitsSet (groupRead s.dir k) d.mask = true) : padDrive c (outputs s) n d = none := by
  unfold padDrive
  split
  · rfl
  · split
    · rename_i k' j hk' hj
      obtain rfl : k = k' := by simpa [hk] using hk'
      rw [if_pos (by simpa [outputs] using hin)]
    · rfl

/-- An output pin with a latch, not routed to the transmitter: its latch drives the line. -/
theorem padDrive_of_output {c : Config} {s : State} {n k j : Nat} {d : PinDescriptor} (hk : d.dir = some k)
    (hj : d.lat = some j) (hout : bitsSet (groupRead s.dir k) d.mask = false)
    (hr : (outputs s).routeO[n]? ≠ some (some c.txFuncCode)) :
    padDrive c (outputs s) n d = some (bitsSet (groupRead s.lat j) d.mask) := by
  unfold padDrive
  rw [if_neg hr]
  simp [hk, hj, outputs, hout]

end Sys2Proof.Machine
end

section
open Sys2Proof Sys2Proof.Machine

/-- Settles O58: a step is a move of the environment or a case of the block, and either keeps every part of the
invariant. -/
theorem stepKeepsInv : Obligations.StepKeepsInv := by
  intro s t hi h
  have hi : MachineInv (beginStep s) := hi
  obtain ⟨m, ms, -, -, rfl⟩ | ⟨-, hb⟩ := step_cases h
  · exact machineInv_envMove hi m
  · exact hb.keeps_machineInv hi

/-- Settles O57: the power-on reset is reset number 0. -/
theorem invHoldsAtReset : Obligations.InvHoldsAtReset := fun _ h => machineInv_resetAt h 0

/-- Settles O55: each value is the field of `State.resetAt`. -/
theorem resetValues : Obligations.ResetValues := by
  intro c e
  refine ⟨rfl, rfl, rfl, rfl, ?ictl, rfl, ?stat, fun p hp => ?ports, fun i hi => ?route, rfl, rfl, ?uctl, rfl, rfl,
    rfl, rfl, rfl, ?serr, rfl, rfl, ?queues, fun k => rfl, fun k => rfl⟩
  case ictl => simp [State.resetAt, Ictl.toByte]
  case stat => simp [State.resetAt, Stat.toByte]
  case uctl => simp [State.resetAt, Uctl.toByte]
  case serr => simp [State.resetAt, serrByte]
  case ports => simp [State.resetAt, hp]
  case route => simp [State.resetAt, hi]
  case queues => simp [State.resetAt, SerialInv]

/-- Settles O13: PINWR writes the latch of a pin that is still an input, and PINDIR OUT then clears its direction bit,
neither touching the routing. -/
theorem latchReachesTheLineWhenThePinIsAnOutput : Obligations.LatchReachesTheLineWhenThePinIsAnOutput := by
  intro s p d k level ho _ hshape hp hk hlat hin hroute
  obtain ⟨hdir, -, hlatLen, -⟩ := hshape
  obtain ⟨j, hj⟩ := Option.isSome_iff_exists.mp hlat
  have hm : d.mask ≠ 0 := by rintro h0; simp [h0] at hin
  have hkl : k < s.dir.length := hdir ▸ handles_lt_of_namesPin ho hp (.inl hk)
  have hjl : j < s.lat.length := hlatLen ▸ handles_lt_of_namesPin ho hp (.inr (.inr (.inr hj)))
  let t₁ := complete 0 (pinLatch d level s)
  let t₂ := complete 0 (pinDirection d true t₁)
  have hp₁ : namesPin t₁ p d := by simpa [t₁, namesPin] using hp
  refine ⟨t₁, t₂, exec_pinwr_of_namesPin hp level, ?input, exec_pindir_of_namesPin hp₁ true, ?output⟩
  case input => exact padDrive_of_input hk (by simpa [t₁, bitsSet, groupRead] using hin)
  case output =>
    have hout : bitsSet (groupRead t₂.dir k) d.mask = false := by
      simp [t₂, t₁, pinDirection_dir hk, groupRead_groupWrite_same hkl, bitsSet_putBits hm]
    have hlevel : bitsSet (groupRead t₂.lat j) d.mask = level := by
      simp [t₂, t₁, pinLatch_lat hj, groupRead_groupWrite_same hjl, bitsSet_putBits hm]
    have hr : (outputs t₂).routeO = (outputs s).routeO := routeO_congr (by simp [t₂, t₁]) (by simp [t₂, t₁])
    rw [padDrive_of_output hk hj hout (by rwa [hr]), hlevel]

/-- Settles O18: `step_counters` and `step_tickPending`. -/
theorem timerStateHasNoOtherWriter : Obligations.TimerStateHasNoOtherWriter := by
  intro s t h hr
  refine ⟨fun hne => (step_counters h hr).resolve_left hne, fun hs ht => ?set, fun hs ht => ?clear⟩
  case set =>
    obtain heq | ⟨htick, -⟩ | ⟨-, hf⟩ := step_tickPending h hr
    · simp [heq, hs] at ht
    · exact htick
    · simp [hf] at ht
  case clear =>
    obtain heq | ⟨-, hf⟩ | ⟨hseq, -⟩ := step_tickPending h hr
    · simp [heq, hs] at ht
    · simp [hf] at ht
    · exact hseq

/-- Settles O26: of all steps but reset, a SERINIT whose rate is accepted alone writes what binds. -/
theorem onlySerinitRebinds : Obligations.OnlySerinitRebinds :=
  fun _ _ h hr hne => (step_binding h hr).resolve_left hne

end

section
/-! PROOF. The register space (spec/20_memory.md): the address map row by row, in both directions (R71, R72), the bytes
of the wide registers and the reserved bits (R74, R79), and the frames of STB and of the commands that store nothing
(R75, R76, R78). -/

namespace Sys2Proof

/-! ## The address map (R71, R72) -/

theorem Reg.addr_lt {c : Config} (hc : c.ok = true) {r : Reg} (hr : r.within c) : r.addr < 2 ^ 12 := by
  have hb := Config.ok_bounds hc
  cases r <;> simp only [Reg.addr, Reg.within, Nat.reducePow] at hr ⊢ <;> omega

/-- R71 in one sentence: a register byte that exists is what its address names. -/
theorem regAt_ofNat_addr {c : Config} (hc : c.ok = true) {r : Reg} (hr : r.within c) :
    regAt c (BitVec.ofNat 12 r.addr) = some r :=
  regAt_of_within hc hr ((BitVec.toNat_ofNat _ _).trans (Nat.mod_eq_of_lt (Reg.addr_lt hc hr)))

theorem lt_nPins_of_hasRoute {c : Config} {i : Nat} (h : c.hasRoute i = true) : i < c.nPins := by
  by_contra hi
  simp [Config.hasRoute, List.getElem?_eq_none (Nat.le_of_not_lt hi)] at h

/-- An address is unmapped exactly if no row of the map gives it a register that exists (R72). -/
theorem regAt_eq_none_iff {c : Config} (hc : c.ok = true) {a : Addr} :
    regAt c a = none ↔ ∀ row ∈ addressMap c, row.base ≤ a.toNat → a.toNat < row.base + row.count →
      c.regExists (row.reg (a.toNat - row.base)) = false := by
  constructor
  · intro h row hrow hlo hhi
    rw [regAt_of_row hc hrow ⟨hlo, hhi⟩] at h
    simpa using h
  · intro h
    by_contra hsome
    obtain ⟨r, hr⟩ := Option.ne_none_iff_exists'.mp hsome
    obtain ⟨row, hfind, hx⟩ := Option.bind_eq_some_iff.mp hr
    have hin := List.find?_some hfind
    simp only [Bool.and_eq_true, decide_eq_true_eq] at hin
    obtain ⟨hlo, hhi⟩ := hin
    obtain ⟨rfl, hexists⟩ : row.reg (a.toNat - row.base) = r ∧ c.regExists r = true := by simpa using hx
    exact Bool.false_ne_true ((h row (List.mem_of_find?_eq_some hfind) hlo hhi).symm.trans hexists)

theorem regExists_portReg (c : Config) (j : Nat) : c.regExists (portReg j) = true := by
  unfold portReg
  split <;> rfl

/-- The gaps between the rows of the map (R72). -/
theorem regAt_eq_none_iff_gap {c : Config} (hc : c.ok = true) {a : Addr} :
    regAt c a = none ↔
      (0x009 ≤ a.toNat ∧ a.toNat ≤ 0x00B) ∨ (0x01C ≤ a.toNat ∧ a.toNat ≤ 0x01F)
      ∨ (0x024 ≤ a.toNat ∧ a.toNat ≤ 0x02F) ∨ (0x040 + 4 * c.nPorts ≤ a.toNat ∧ a.toNat ≤ 0x07F)
      ∨ (0x080 ≤ a.toNat ∧ a.toNat ≤ 0x0FF ∧ c.hasRoute (a.toNat - 0x080) = false)
      ∨ (0x100 + c.rxCap ≤ a.toNat ∧ a.toNat ≤ 0x1FF) ∨ (0x200 + c.txCap ≤ a.toNat) := by
  have hb := Config.ok_bounds hc
  rw [regAt_eq_none_iff hc]
  -- `Config.regExists` is unfolded last: of the port row's register `portReg j` it is not known which of four it is.
  simp only [addressMap, List.forall_mem_cons, List.not_mem_nil, false_imp_iff, implies_true, and_true,
    regExists_portReg]
  simp only [Config.regExists, Bool.true_eq_false, imp_false, Nat.not_lt]
  cases hroute : c.hasRoute (a.toNat - 0x080) with
  | true =>
    have hlt := lt_nPins_of_hasRoute hroute
    simp only [Bool.true_eq_false, imp_false, and_false, false_or, Nat.not_lt]
    omega
  | false =>
    simp only [implies_true, and_true, true_and]
    omega

end Sys2Proof

namespace Sys2Proof.Machine

/-! ## LDB and STB -/

theorem exec_ldb_of_mapped {s : State} {a : Addr} {r : Reg} (h : regAt s.cfg a = some r) :
    exec (.ldb a) s = .next (complete ((readReg s r).setWidth 32) (afterRead s r)) := by
  simp [exec, execLdb, h]

theorem exec_ldb_of_unmapped {s : State} {a : Addr} (h : regAt s.cfg a = none) :
    exec (.ldb a) s = .next (dropCommand .unmappedAddress s) := by
  simp [exec, execLdb, h]

theorem exec_stb_of_mapped {s : State} {a : Addr} {r : Reg} (h : regAt s.cfg a = some r) (v : Byte) :
    exec (.stb a v) s = .next (complete 0 (writeReg s r v)) := by
  simp [exec, execStb, h]

theorem exec_stb_of_unmapped {s : State} {a : Addr} (h : regAt s.cfg a = none) (v : Byte) :
    exec (.stb a v) s = .next (dropCommand .unmappedAddress s) := by
  simp [exec, execStb, h]

/-! ## Bytes of the register space (R74, R79) -/

theorem byteAt_ofNat_addr {s : State} (hc : s.cfg.ok = true) {r : Reg} (hr : r.within s.cfg) :
    byteAt s (BitVec.ofNat 12 r.addr) = some (readReg s r) := by
  simp [byteAt, regAt_ofNat_addr hc hr]

theorem append_bytes_word (w : Word) : (byteOf w 3 ++ byteOf w 2 ++ byteOf w 1 ++ byteOf w 0 : Word) = w :=
  packWord_fields w

/-- The bytes at four consecutive addresses, put together (R74). -/
theorem exists_bytes_word {s : State} {base : Nat} {w : Word}
    (h : ∀ k < 4, byteAt s (BitVec.ofNat 12 (base + k)) = some (byteOf w k)) :
    ∃ b₀ b₁ b₂ b₃, byteAt s (BitVec.ofNat 12 base) = some b₀ ∧ byteAt s (BitVec.ofNat 12 (base + 1)) = some b₁
      ∧ byteAt s (BitVec.ofNat 12 (base + 2)) = some b₂ ∧ byteAt s (BitVec.ofNat 12 (base + 3)) = some b₃
      ∧ (b₃ ++ b₂ ++ b₁ ++ b₀ : Word) = w :=
  ⟨_, _, _, _, h 0 (by decide), h 1 (by decide), h 2 (by decide), h 3 (by decide), append_bytes_word w⟩

theorem append_bytes_half (h : Half) : (byteOf h 1 ++ byteOf h 0 : Half) = h := by
  simp only [byteOf]
  exact (BitVec.extractLsb'_append_extractLsb'_eq_extractLsb' rfl).trans BitVec.extractLsb'_eq_self

theorem Ictl.toByte_reserved (i : Ictl) : i.toByte &&& 0x78 = 0 := by
  obtain ⟨gie, tickIe, rxIe, txIe⟩ := i
  revert gie tickIe rxIe txIe
  decide

theorem iflgByte_reserved (s : State) : iflgByte s &&& 0xF8 = 0 := by
  unfold iflgByte
  generalize s.tickPending = p, rxReady s = r, txReady s = x
  revert p r x
  decide

theorem Stat.toByte_reserved (t : Stat) : t.toByte &&& 0x0E = 0 := by
  obtain ⟨cmderr, cause, tmrRun⟩ := t
  revert cmderr cause tmrRun
  decide

theorem Uctl.toByte_reserved (u : Uctl) : u.toByte &&& 0x4C = 0 := by
  obtain ⟨uartEn, txEn, rxEn, tier⟩ := u
  revert uartEn txEn rxEn tier
  decide

theorem ustaByte_reserved (s : State) : ustaByte s &&& 0xF9 = 0 := by
  unfold ustaByte
  generalize ferr s = f, oerr s = o
  revert f o
  decide

theorem serrByte_reserved (s : State) : serrByte s &&& 0xFE = 0 := by
  unfold serrByte
  generalize s.serr = e
  revert e
  decide

/-! ## Frames (R75, R76, R78) -/

theorem agreeOn_refl (s : State) (r : Reg) : agreeOn s s r := by cases r <;> simp [agreeOn]

theorem byteAt_complete (x : Word) (s : State) (a : Addr) : byteAt (complete x s) a = byteAt s a := by
  simp only [byteAt, complete_keeps, funext (readReg_complete x s)]

/-- The response is no register: it does not enter a frame. -/
theorem keepsBytesBut_complete {f : Reg → Bool} {s t : State} (h : keepsBytesBut f s t) (x : Word) :
    keepsBytesBut f s (complete x t) := by
  intro a r hr hd hf
  rw [byteAt_complete, h a r hr hd hf]

theorem keepsBytesBut_refl (f : Reg → Bool) (s : State) : keepsBytesBut f s s := fun _ _ _ _ _ => rfl

theorem keepsBytesBut_mono {f g : Reg → Bool} {s t : State} (h : keepsBytesBut f s t)
    (hfg : ∀ r, g r = false → f r = false) : keepsBytesBut g s t :=
  fun a r hr hd hg => h a r hr hd (hfg r hg)

theorem keepsBytesBut_setGie (v : Bool) (s : State) : keepsBytesBut (· == .ictl) s (setGie v s) := by
  refine keepsBytesBut_of_agreeOn (by simp) fun r _ hf _ => ?_
  have same := agreeOn_refl s r
  cases r with
  | ictl => cases hf
  | _ => exact same

theorem keepsBytesBut_dropCommand (c : Cause) (s : State) : keepsBytesBut (· == .stat) s (dropCommand c s) := by
  refine keepsBytesBut_of_agreeOn (by simp) fun r _ hf _ => ?_
  have same := agreeOn_refl s r
  cases r with
  | stat => cases hf
  | _ => exact same

/-- Using up a draw changes only the bytes that are draws themselves. -/
theorem keepsBytesBut_drawn (f : Reg → Bool) (s : State) : keepsBytesBut f s (drawn s) := by
  refine keepsBytesBut_of_agreeOn (by simp) fun r _ _ hd => ?_
  cases r with
  | portin p => cases hd
  | usta => exact ⟨by simp, fun ho => absurd ho (by simpa [readDraws] using hd)⟩
  | iflg => simp [agreeOn, txReady]
  | rxqbuf k => exact bufferRead_congr (by simp) (by simp) _
  | txqbuf k => exact bufferRead_congr (by simp) (by simp) _
  | _ => simp [agreeOn]

theorem keepsBytesBut_afterRead (f : Reg → Bool) (s : State) (r : Reg) : keepsBytesBut f s (afterRead s r) := by
  obtain h | h := afterRead_eq s r <;> rw [h]
  · exact keepsBytesBut_refl f s
  · exact keepsBytesBut_drawn f s

theorem writeReg_frame (s : State) (r : Reg) (v : Byte) :
    writeReg s r v = { s with
      ictl := (writeReg s r v).ictl, serr := (writeReg s r v).serr, rxqlen := (writeReg s r v).rxqlen
      txqlen := (writeReg s r v).txqlen, txqcur := (writeReg s r v).txqcur, tmrms := (writeReg s r v).tmrms
      tmrus := (writeReg s r v).tmrus, arg := (writeReg s r v).arg, mem := (writeReg s r v).mem } := by
  cases r <;> rfl

/-- What a store to one register byte leaves of every other: the bytes of one wide register, and the places of the two
buffers, do not overlap. -/
theorem agreeOn_writeReg {s : State} (hc : s.cfg.ok = true) {r q : Reg} (hr : r.within s.cfg) (hq : q.within s.cfg)
    (h : q ≠ r) (v : Byte) : agreeOn s (writeReg s r v) q := by
  have hb := Config.ok_bounds hc
  have same := agreeOn_refl s q
  cases r with
  | tmrms k =>
    cases q with
    | tmrms j => exact byteOf_setByteOf_other _ v (by simp only [Reg.within] at hq; omega) (by simpa using h)
    | _ => exact same
  | tmrus k =>
    cases q with
    | tmrus j => exact byteOf_setByteOf_other _ v (by simp only [Reg.within] at hq; omega) (by simpa using h)
    | _ => exact same
  | arg k =>
    cases q with
    | arg j => exact byteOf_setByteOf_other _ v (by simp only [Reg.within] at hq; omega) (by simpa using h)
    | _ => exact same
  | rxqbuf k =>
    cases q with
    | rxqbuf j => exact rxqbuf_setRxqbuf_other v s (by simpa using h)
    | txqbuf j => exact txqbuf_setRxqbuf v s (by simp only [Reg.within] at hr; omega)
    | _ => exact same
  | txqbuf k =>
    cases q with
    | rxqbuf j => exact rxqbuf_setTxqbuf v s (by simp only [Reg.within] at hq; omega)
    | txqbuf j => exact txqbuf_setTxqbuf_other v s (by simpa using h)
    | _ => exact same
  | ictl => cases q with | ictl => exact absurd rfl h | _ => exact same
  | serr => cases q with | serr => exact absurd rfl h | _ => exact same
  | rxqlen => cases q with | rxqlen => exact absurd rfl h | _ => exact same
  | txqlen => cases q with | txqlen => exact absurd rfl h | _ => exact same
  | txqcur => cases q with | txqcur => exact absurd rfl h | _ => exact same
  | _ => exact same

/-- R76, R78: a store reaches the byte at its own address and no other. -/
theorem byteAt_writeReg_other {s : State} (hc : s.cfg.ok = true) {a b : Addr} {r : Reg} (hr : regAt s.cfg a = some r)
    (hne : b ≠ a) (v : Byte) : byteAt (writeReg s r v) b = byteAt s b := by
  unfold byteAt
  rw [writeReg_cfg]
  cases hq : regAt s.cfg b with
  | none => rfl
  | some q =>
    have hqr : q ≠ r := by rintro rfl; exact hne (regAt_inj hq hr)
    have hagree := agreeOn_writeReg hc (regAt_addr hr).2 (regAt_addr hq).2 hqr v
    simp [readReg_of_agreeOn (writeReg_cfg s r v) hagree]

end Sys2Proof.Machine
end

section
open Sys2Proof Sys2Proof.Machine

/-- Settles O41: the store is `writeReg`, whose frame is `writeReg_frame` for the state and `byteAt_writeReg_other` for
the bytes. -/
theorem stbKeepsEveryOtherByte : Obligations.StbKeepsEveryOtherByte := by
  intro s a v r t hc hr ht
  rw [exec_stb_of_mapped hr] at ht
  injection ht with ht
  subst ht
  refine ⟨congrArg (complete 0) (writeReg_frame s r v), fun b q _ _ hne => ?_⟩
  rw [byteAt_complete, byteAt_writeReg_other hc hr hne]

/-- Settles O42: each command is one of the updates framed above. -/
theorem commandsThatStoreNothingKeepEveryByte : Obligations.CommandsThatStoreNothingKeepEveryByte := by
  intro s t
  refine ⟨?nop, ?serproc, ?critent, fun v => ?critexit, fun a => ?ldb, ?tmrinit, ?tmrtick⟩ <;> intro h
  case nop => injection h with h; subst h; exact keepsBytesBut_complete (keepsBytesBut_refl _ s) 0
  case serproc =>
    injection h with h
    subst h
    exact keepsBytesBut_of_agreeOn rfl fun r _ _ _ => by
      have same := agreeOn_refl s r
      cases r <;> exact same
  case critent => injection h with h; subst h; exact keepsBytesBut_complete (keepsBytesBut_setGie false s) _
  case critexit => injection h with h; subst h; exact keepsBytesBut_complete (keepsBytesBut_setGie v s) 0
  case ldb =>
    cases hr : regAt s.cfg a with
    | none =>
      rw [exec_ldb_of_unmapped hr] at h
      injection h with h
      subst h
      exact keepsBytesBut_dropCommand _ s
    | some r =>
      rw [exec_ldb_of_mapped hr] at h
      injection h with h
      subst h
      exact keepsBytesBut_complete (keepsBytesBut_afterRead _ s r) _
  case tmrinit =>
    injection h with h
    subst h
    refine keepsBytesBut_complete ?_ 0
    refine keepsBytesBut_of_agreeOn rfl fun r _ hf _ => ?_
    have same := agreeOn_refl s r
    cases r with
    | ictl | tpre | stat | tmrms | tmrus => cases hf
    | _ => exact same
  case tmrtick =>
    injection h with h
    split at h
    · subst h
      refine keepsBytesBut_of_agreeOn rfl fun r _ hf _ => ?_
      have same := agreeOn_refl s r
      cases r with
      | iflg | stat | tmrms | tmrus => cases hf
      | _ => exact same
    · subst h
      exact keepsBytesBut_mono (keepsBytesBut_dropCommand _ s) fun r hf => by
        cases r with
        | stat => cases hf
        | _ => rfl

/-- Settles O43: every row is `regAt_ofNat_addr` at a register that exists. -/
theorem addressMapIsTheTable : Obligations.AddressMapIsTheTable := by
  intro c hc
  have row : ∀ r : Reg, r.within c → regAt c (BitVec.ofNat 12 r.addr) = some r := fun _ => regAt_ofNat_addr hc
  exact ⟨row .ictl trivial, row .iflg trivial, row .uctl trivial, row .usta trivial, row .brgl trivial,
    row .brgh trivial, row .rxsel trivial, row .tpre trivial, row .stat trivial, row .serr trivial, row .rxqlen trivial,
    row .txqlen trivial, row .txqcur trivial, fun k hk => row (.tmrms k) hk, fun k hk => row (.tmrus k) hk,
    row .rcbound trivial, row .txbound trivial, fun k hk => row (.arg k) hk, fun k hk => row (.cfgfreq k) hk,
    fun k hk => row (.cfgdev k) hk,
    fun p hp => ⟨row (.dir p) hp, row (.portin p) hp, row (.ansel p) hp, row (.lat p) hp⟩,
    fun i hi => row (.route i) ⟨lt_nPins_of_hasRoute hi, hi⟩, fun k hk => row (.rxqbuf k) hk,
    fun k hk => row (.txqbuf k) hk⟩

/-- Settles O44: the gaps between the rows, and the drop of an access to one of them. -/
theorem everyOtherAddressIsUnmapped : Obligations.EveryOtherAddressIsUnmapped := fun s _ hc =>
  ⟨regAt_eq_none_iff_gap hc, fun h v =>
    ⟨dropCommand .unmappedAddress s, exec_ldb_of_unmapped h, exec_stb_of_unmapped h v, rfl⟩⟩

/-- Settles O45: a byte is `readReg` of the register at its address; the bytes of a wide register put together are the
register, and each flag register's byte has its reserved bits 0. -/
theorem wideRegistersAreLittleEndianAndReservedBitsReadZero :
    Obligations.WideRegistersAreLittleEndianAndReservedBitsReadZero := by
  intro s hc
  obtain ⟨hclk, -, -, -, -, -, -, -, -, hname⟩ := Config.ok_bounds hc
  have byte : ∀ r : Reg, r.within s.cfg → byteAt s (BitVec.ofNat 12 r.addr) = some (readReg s r) :=
    fun _ => byteAt_ofNat_addr hc
  refine ⟨?tmrms, ?tmrus, ?arg, ?cfgfreq, fun k hk => ?cfgdev, ?ictl, ?iflg, ?stat, ?uctl, ?usta, ?serr⟩
  case tmrms => exact exists_bytes_word (base := 0x010) fun k hk => byte (.tmrms k) hk
  case tmrus => exact ⟨_, _, byte (.tmrus 0) two_pos, byte (.tmrus 1) one_lt_two, append_bytes_half s.tmrus⟩
  case arg => exact exists_bytes_word (base := 0x018) fun k hk => byte (.arg k) hk
  case cfgfreq =>
    obtain ⟨b₀, b₁, b₂, b₃, h₀, h₁, h₂, h₃, happ⟩ :=
      exists_bytes_word (base := 0x020) fun k hk => byte (.cfgfreq k) hk
    exact ⟨b₀, b₁, b₂, b₃, h₀, h₁, h₂, h₃, by rw [happ, BitVec.toNat_ofNat, Nat.mod_eq_of_lt hclk]⟩
  case cfgdev =>
    have hlt : k < s.cfg.deviceName.length := by omega
    exact (byte (.cfgdev k) hk).trans (by simp [readReg, groupRead, hlt])
  case ictl => exact ⟨_, byte .ictl trivial, s.ictl.toByte_reserved⟩
  case iflg => exact ⟨_, byte .iflg trivial, iflgByte_reserved s⟩
  case stat => exact ⟨_, byte .stat trivial, s.stat.toByte_reserved⟩
  case uctl => exact ⟨_, byte .uctl trivial, s.uctl.toByte_reserved⟩
  case usta => exact ⟨_, byte .usta trivial, ustaByte_reserved s⟩
  case serr => exact ⟨_, byte .serr trivial, serrByte_reserved s⟩

end

section
/-! PROOF. Decoding and encoding (spec/30_encoding.md): the decoder and the encoder undo each other (R101 to R107), a
word is an instance of a row exactly when its masked bits are the row's (R103), and the five checks in their order
(R109). -/

namespace Sys2Proof

/-! ## The encoder and the decoder (R101 to R107) -/

@[simp] theorem mnemonic_build (m : Mnemonic) (a b c : Byte) : (m.build a b c).mnemonic = m := by cases m <;> rfl

theorem opField_encode (i : Instr) : opField (encode i) = i.mnemonic.op := by cases i <;> exact opField_packWord ..

/-- No field an encoded instruction leaves unused holds a bit (R105 to R107). -/
theorem reservedZero_encode (i : Instr) :
    i.mnemonic.format.reservedZero (aField (encode i)) (bField (encode i)) (cField (encode i)) = true := by
  cases i <;> simp [encode, Instr.mnemonic, Mnemonic.format, Format.reservedZero]

/-- An instruction's row reads its operands back from its word. -/
theorem build_encode (i : Instr) :
    i.mnemonic.build (aField (encode i)) (bField (encode i)) (cField (encode i)) = i := by
  cases i <;> simp only [encode, Instr.mnemonic, Mnemonic.build, aField_packWord, bField_packWord, cField_packWord,
    flagByte_bit, addrOf_fields]

theorem decode_encode (i : Instr) : decode (encode i) = .ok i :=
  decode_eq_ok.mpr ⟨i.mnemonic, opField_encode i, reservedZero_encode i, (build_encode i).symm⟩

/-- What a row reads from fields whose reserved bits are zero encodes to just these fields, so no bit is lost. -/
theorem encode_build {m : Mnemonic} {a b c : Byte} (h : m.format.reservedZero a b c = true) :
    encode (m.build a b c) = packWord m.op a b c := by
  cases m <;> simp only [Mnemonic.format, Format.reservedZero, Bool.and_eq_true, beq_iff_eq] at h <;>
    simp only [Mnemonic.build, encode, Mnemonic.op]
  case nop | tmrinit | tmrtick | serproc | critent =>
    obtain ⟨⟨rfl, rfl⟩, rfl⟩ := h
    rfl
  case pinrd =>
    obtain ⟨rfl, rfl⟩ := h
    rfl
  case pindir | pinwr | pinana =>
    obtain ⟨rfl, hc⟩ := h
    rw [flagByte_eq hc]
  case critexit =>
    obtain ⟨⟨rfl, rfl⟩, hc⟩ := h
    rw [flagByte_eq hc]
  case serinit => rw [h]
  case ldb =>
    obtain ⟨ha, rfl⟩ := h
    rw [addrHigh_addrOf ha, addrLow_addrOf]
  case stb => rw [addrHigh_addrOf h, addrLow_addrOf]

/-! ## The opcode map's masks (R103) -/

theorem word_eq_iff_fields {x y : Word} :
    x = y ↔ opField x = opField y ∧ aField x = aField y ∧ bField x = bField y ∧ cField x = cField y := by
  constructor
  · rintro rfl
    exact ⟨rfl, rfl, rfl, rfl⟩
  · rintro ⟨ho, ha, hb, hc⟩
    rw [← packWord_fields x, ho, ha, hb, hc, packWord_fields]

/-- A masked word, field by field. -/
theorem and_eq_iff_fields {w x y : Word} :
    w &&& x = y ↔ opField w &&& opField x = opField y ∧ aField w &&& aField x = aField y
      ∧ bField w &&& bField x = bField y ∧ cField w &&& cField x = cField y := by
  simp only [word_eq_iff_fields, opField, aField, bField, cField, BitVec.extractLsb'_and]

/-- The row's opcode is the whole of op. -/
theorem opField_mask (m : Mnemonic) : opField m.mask = 0xFF := by cases m <;> decide

theorem fields_matchWord (m : Mnemonic) :
    opField m.matchWord = m.op ∧ aField m.matchWord = 0 ∧ bField m.matchWord = 0 ∧ cField m.matchWord = 0 := by
  cases m <;> decide

theorem extract_high7_eq_zero_iff (c : Byte) : c.extractLsb' 1 7 = 0#7 ↔ c &&& 0xFE#8 = 0#8 := by
  revert c
  decide

theorem extract_high4_eq_zero_iff (a : Byte) : a.extractLsb' 4 4 = 0#4 ↔ a &&& 0xF0#8 = 0#8 := by
  revert a
  decide

/-- The bits a row's format holds at zero are those of the row's mask in the three operand fields. -/
theorem reservedZero_iff_mask (m : Mnemonic) (a b c : Byte) :
    m.format.reservedZero a b c = true ↔
      a &&& aField m.mask = 0 ∧ b &&& bField m.mask = 0 ∧ c &&& cField m.mask = 0 := by
  have hall (x : Byte) : x &&& 0xFF#8 = x := BitVec.and_allOnes
  cases m <;>
    simp [Mnemonic.format, Format.reservedZero, Mnemonic.mask, aField, bField, cField, and_assoc,
      extract_high7_eq_zero_iff, extract_high4_eq_zero_iff, hall]

/-- R103: the masked bits are the row's exactly if op is the row's and the reserved fields are zero. -/
theorem and_mask_eq_matchWord_iff {w : Word} {m : Mnemonic} :
    w &&& m.mask = m.matchWord ↔
      opField w = m.op ∧ m.format.reservedZero (aField w) (bField w) (cField w) = true := by
  obtain ⟨ho, ha, hb, hc⟩ := fields_matchWord m
  have hall : opField w &&& 0xFF = opField w := BitVec.and_allOnes
  rw [and_eq_iff_fields, ho, ha, hb, hc, opField_mask, hall, reservedZero_iff_mask]

/-! ## The five checks (R109) -/

/-- Check 1. -/
theorem decode_of_unassigned {w : Word} (h : ∀ m : Mnemonic, opField w ≠ m.op) : decode w = .error .illegalOpcode := by
  simp only [decode, ofOp_eq_none.mpr h]

/-- Check 2. -/
theorem decode_of_and_mask_ne {w : Word} {m : Mnemonic} (ho : opField w = m.op) (h : w &&& m.mask ≠ m.matchWord) :
    decode w = .error .reservedField := by
  have hz : ¬ m.format.reservedZero (aField w) (bField w) (cField w) = true := fun hz =>
    h (and_mask_eq_matchWord_iff.mpr ⟨ho, hz⟩)
  simp only [decode, ho, ofOp_op, if_neg hz]

theorem decode_of_and_mask_eq {w : Word} {m : Mnemonic} (h : w &&& m.mask = m.matchWord) :
    decode w = .ok (m.build (aField w) (bField w) (cField w)) :=
  have ⟨ho, hz⟩ := and_mask_eq_matchWord_iff.mp h
  decode_eq_ok.mpr ⟨m, ho, hz, rfl⟩

theorem decodeCommand_of_error {c : Config} {w : Word} {e : Cause} (h : decode w = .error e) :
    decodeCommand c w = .error e := by
  simp only [decodeCommand, h]

theorem decodeCommand_of_portCause {c : Config} {w : Word} {i : Instr} {e : Cause} (hd : decode w = .ok i)
    (hp : portCause c i = some e) : decodeCommand c w = .error e := by
  simp only [decodeCommand, hd, hp]

theorem decodeCommand_of_portCause_none {c : Config} {w : Word} {i : Instr} (hd : decode w = .ok i)
    (hp : portCause c i = none) : decodeCommand c w = .ok i := by
  simp only [decodeCommand, hd, hp]

theorem pinOk_eq_false_iff {c : Config} {p : PinId} : pinOk c p = false ↔ Machine.badPin c p := by
  rw [← Bool.not_eq_true, Machine.pinOk_iff, not_or, Nat.not_lt, Machine.badPin]

/-- Check 3. -/
theorem portCause_build_of_badPin {c : Config} {m : Mnemonic} {a b d : Byte}
    (h : m ∈ [.pindir, .pinrd, .pinwr, .pinana] ∧ Machine.badPin c a
      ∨ m = .serinit ∧ (Machine.badPin c a ∨ Machine.badPin c b)) :
    portCause c (m.build a b d) = some .invalidPin := by
  simp only [← pinOk_eq_false_iff] at h
  obtain ⟨hm, ha⟩ | ⟨rfl, hab⟩ := h
  · fin_cases hm <;> simp [Mnemonic.build, portCause, ha]
  · rcases hab with ha | hb
    · simp [Mnemonic.build, portCause, ha]
    · simp [Mnemonic.build, portCause, hb]

/-- Check 5. -/
theorem portCause_build_of_unmapped {c : Config} {m : Mnemonic} {a b : Byte} (hm : m ∈ [.ldb, .stb])
    (h : regAt c (addrOf a b) = none) (d : Byte) : portCause c (m.build a b d) = some .unmappedAddress := by
  fin_cases hm <;> simp [Mnemonic.build, portCause, h]

/-- No check fails. -/
theorem portCause_build_eq_none {c : Config} {m : Mnemonic} {a b : Byte}
    (hpin : ¬ (m ∈ [.pindir, .pinrd, .pinwr, .pinana] ∧ Machine.badPin c a))
    (hser : ¬ (m = .serinit ∧ (Machine.badPin c a ∨ Machine.badPin c b))) (htick : m ≠ .tmrtick)
    (haddr : ¬ (m ∈ [.ldb, .stb] ∧ regAt c (addrOf a b) = none)) (d : Byte) :
    portCause c (m.build a b d) = none := by
  simp only [← pinOk_eq_false_iff] at hpin hser
  cases m with
  | tmrtick => exact absurd rfl htick
  | pindir | pinrd | pinwr | pinana => simpa [Mnemonic.build, portCause] using hpin
  | serinit => simpa [Mnemonic.build, portCause] using hser
  | ldb | stb => simpa [Mnemonic.build, portCause, Option.isSome_iff_ne_none] using haddr
  | _ => rfl

end Sys2Proof
end

section
/-! PROOF. Which steps take a word of the host's list (R15, R110). -/

namespace Sys2Proof.Machine

@[simp] theorem portOpen_beginStep (s : State) : portOpen (beginStep s) = portOpen s := rfl

theorem envMove_cmds (m : Move) (s : State) : (envMove m s).cmds = s.cmds := by
  by_cases hm : m = .rst
  · subst hm; rfl
  · simp [envMove_keeps hm]

/-- A block step leaves the host's words alone, or stands at an open port and takes the first. -/
theorem BlockCase.takes_first_word {s t : State} (h : BlockCase s t) :
    t.cmds = s.cmds ∨ portOpen s = true ∧ ∃ w, s.cmds = w :: t.cmds := by
  cases h with
  | drop w ws c hs hc hi hw hd ht => exact .inr ⟨portOpen_iff.mpr ⟨hs, hc, hi⟩, w, by simp [ht, hw]⟩
  | run w ws i hs hc hi hw hd ht =>
    obtain ⟨-, -, -, -, hcmds, -⟩ := exec_keeps ht
    exact .inr ⟨portOpen_iff.mpr ⟨hs, hc, hi⟩, w, by rw [hcmds, hw]⟩
  | _ => rename_i ht; exact .inl (by simp [ht])

/-- A step of any agent leaves the host's words alone, or is the block's at an open port and takes the first. -/
theorem step_takes_first_word {s t : State} (h : step s = .next t) :
    t.cmds = s.cmds ∨ portOpen s = true ∧ blockMoves s = true ∧ ∃ w, s.cmds = w :: t.cmds := by
  obtain ⟨m, ms, -, -, rfl⟩ | ⟨hb, hcase⟩ := step_cases h
  · exact .inl (by simp [envMove_cmds])
  · obtain hcmds | ⟨hp, w, hw⟩ := hcase.takes_first_word
    · exact .inl (by simpa using hcmds)
    · exact .inr ⟨by simpa using hp, hb, w, by simpa using hw⟩

end Sys2Proof.Machine
end

section
open Sys2Proof Sys2Proof.Machine

/-- Settles O2: an instruction's fields are read back whole, and what a row reads encodes to the word's own four
fields. -/
theorem decodeInvertsEncode : Obligations.DecodeInvertsEncode := by
  intro w i
  constructor
  · intro h
    obtain ⟨m, ho, hz, rfl⟩ := decode_eq_ok.mp h
    rw [encode_build hz, ← ho, packWord_fields]
  · rintro rfl
    exact decode_encode i

/-- Settles O3: the decoder's test of op and of the reserved fields is the row's mask
(`and_mask_eq_matchWord_iff`). -/
theorem decodeFollowsTheOpcodeMap : Obligations.DecodeFollowsTheOpcodeMap := by
  intro w m
  constructor
  · rintro ⟨i, hd, rfl⟩
    obtain ⟨m, ho, hz, rfl⟩ := decode_eq_ok.mp hd
    rw [mnemonic_build]
    exact and_mask_eq_matchWord_iff.mpr ⟨ho, hz⟩
  · intro h
    exact ⟨_, decode_of_and_mask_eq h, mnemonic_build m _ _ _⟩

/-- Settles O4: checks 1 and 2 are the decoder's; a word that passes them is the command its row builds, and checks 3
to 5 are `portCause` of that command. -/
theorem firstFailingCheckGivesTheCause : Obligations.FirstFailingCheckGivesTheCause := by
  intro c w
  refine ⟨fun h => decodeCommand_of_error (decode_of_unassigned h), fun m ho =>
    ⟨fun h => decodeCommand_of_error (decode_of_and_mask_ne ho h), fun h => ?legal⟩⟩
  have hd := decode_of_and_mask_eq h
  exact ⟨fun hp => decodeCommand_of_portCause hd (portCause_build_of_badPin hp),
    fun ht => decodeCommand_of_portCause hd (ht ▸ rfl),
    fun hm ha => decodeCommand_of_portCause hd (portCause_build_of_unmapped hm ha _),
    fun hp hq ht ha => decodeCommand_of_portCause_none hd (portCause_build_eq_none hp hq ht ha _)⟩

/-- Settles O6: of all steps, those of the block at an open port alone take a word (`step_takes_first_word`). -/
theorem wordsAreTakenOnlyAtAnOpenPort : Obligations.WordsAreTakenOnlyAtAnOpenPort := by
  intro s t h hne
  obtain ⟨hp, hb, w, hw⟩ := (step_takes_first_word h).resolve_left hne
  exact ⟨hp, hb, by simp [hw]⟩

/-- Settles O1: the decoder runs on each of the thirteen words. -/
theorem tableWordsDecode : Obligations.TableWordsDecode := by
  unfold Obligations.TableWordsDecode
  decide

end

section
/-! PROOF. The pin unit (spec/40_pin.md): which pin an identifier names and what each of the four commands comes to
there (R130), what PINRD reads (R132), the map's well-formedness (R29), and the frames of the four commands (R135). -/

namespace Sys2Proof.Machine

/-! ## The pin an identifier names (R27, R130) -/

/-- The four commands of the pin unit, on one pin. -/
def onPin (p : PinId) : Instr → Prop
  | .pindir q _ | .pinrd q | .pinwr q _ | .pinana q _ => q = p
  | _ => False

theorem pinOperand_null (c : Config) : pinOperand c nullPin = .null := by simp [pinOperand]

theorem pinOperand_of_not_pinOk {c : Config} {p : PinId} (h : pinOk c p = false) : pinOperand c p = .invalid := by
  simpa [pinOk] using h

theorem pinId_cases (s : State) (p : PinId) :
    p = nullPin ∨ (∃ d, namesPin s p d) ∨ pinOk s.cfg p = false := by
  by_cases hp : p = nullPin
  · exact .inl hp
  · cases hd : s.cfg.pinMap[p.toNat]? with
    | some d => exact .inr (.inl ⟨d, hp, hd⟩)
    | none => exact .inr (.inr (by simp [pinOk, pinOperand, hp, hd]))

theorem exec_onPin_null {i : Instr} {s : State} (hi : onPin nullPin i) : exec i s = .next (complete 0 s) := by
  cases i with
  | pindir | pinrd | pinwr | pinana =>
    cases hi
    simp only [exec, execPindir, execPinrd, execPinwr, execPinana, pinOperand_null]
  | _ => cases hi

theorem exec_onPin_invalid {i : Instr} {s : State} {p : PinId} (hi : onPin p i) (h : pinOk s.cfg p = false) :
    exec i s = .next (dropCommand .invalidPin s) := by
  cases i with
  | pindir | pinrd | pinwr | pinana =>
    cases hi
    simp only [exec, execPindir, execPinrd, execPinwr, execPinana, pinOperand_of_not_pinOk h]
  | _ => cases hi

theorem exec_pinana_of_namesPin {s : State} {p : PinId} {d : PinDescriptor} (h : namesPin s p d) (ana : Bool) :
    exec (.pinana p ana) s = .next (complete 0 (pinAnalog d ana s)) := by
  simp [exec, execPinana, pinOperand_of_namesPin h]

theorem exec_pinrd_of_namesPin {s : State} {p : PinId} {d : PinDescriptor} (h : namesPin s p d) :
    exec (.pinrd p) s = .next (complete (bitWord (pinLevel s d)) (afterPinRead s d)) := by
  simp [exec, execPinrd, pinOperand_of_namesPin h]

/-! ## The bits a pin has (R131, R133, R134) -/

theorem pinDirection_of_absent {d : PinDescriptor} (h : d.dir = none) (out : Bool) (s : State) :
    pinDirection d out s = s := by simp [pinDirection, h]

theorem pinLatch_of_absent {d : PinDescriptor} (h : d.lat = none) (level : Bool) (s : State) :
    pinLatch d level s = s := by simp [pinLatch, h]

theorem pinAnalog_of_absent {d : PinDescriptor} (h : d.ansel = none) (ana : Bool) (s : State) :
    pinAnalog d ana s = s := by simp [pinAnalog, h]

theorem pinDirection_of_handle {d : PinDescriptor} {k : Nat} (h : d.dir = some k) (out : Bool) (s : State) :
    pinDirection d out s =
      { s with dir := groupWrite s.dir k (putBits (groupRead s.dir k) d.mask (!out)) } := by simp [pinDirection, h]

theorem pinLatch_of_handle {d : PinDescriptor} {k : Nat} (h : d.lat = some k) (level : Bool) (s : State) :
    pinLatch d level s =
      { s with lat := groupWrite s.lat k (putBits (groupRead s.lat k) d.mask level) } := by simp [pinLatch, h]

theorem pinAnalog_of_handle {d : PinDescriptor} {k : Nat} (h : d.ansel = some k) (ana : Bool) (s : State) :
    pinAnalog d ana s =
      { s with ansel := groupWrite s.ansel k (putBits (groupRead s.ansel k) d.mask ana) } := by simp [pinAnalog, h]

/-! ## What PINRD reads (R132) -/

theorem bitWord_bitsSet (r m : Byte) : bitWord (bitsSet r m) = if r &&& m ≠ 0 then 1 else 0 := by
  simp [bitWord, bitsSet]

theorem isOutput_of_handle {d : PinDescriptor} {k : Nat} (h : d.dir = some k) (s : State) :
    isOutput s d = !bitsSet (groupRead s.dir k) d.mask := by simp [isOutput, h]

/-- The pin is no output: it has no direction bit, or the bit is set. -/
theorem isOutput_eq_false_iff {s : State} {d : PinDescriptor} :
    isOutput s d = false ↔ d.dir = none ∨ ∃ k, d.dir = some k ∧ s.dir.getD k 0 &&& d.mask ≠ 0 := by
  cases h : d.dir <;> simp [isOutput, bitsSet, groupRead, h]

theorem pinSource_of_no_port {d : PinDescriptor} (h : d.port = none) (s : State) : pinSource s d = .nothing := by
  simp [pinSource, h]

theorem pinSource_of_output {s : State} {d : PinDescriptor} {q j : Nat} (hq : d.port = some q)
    (ho : isOutput s d = true) (hj : d.lat = some j) : pinSource s d = .latch j := by
  simp [pinSource, hq, ho, hj]

theorem pinSource_of_port {s : State} {d : PinDescriptor} {q : Nat} (hq : d.port = some q)
    (h : isOutput s d = false ∨ d.lat = none) : pinSource s d = .port := by
  rcases h with h | h
  · simp [pinSource, hq, h]
  · cases ho : isOutput s d <;> simp [pinSource, hq, h, ho]

theorem pinLevel_of_latch {s : State} {d : PinDescriptor} {j : Nat} (h : pinSource s d = .latch j) :
    pinLevel s d = bitsSet (groupRead s.lat j) d.mask := by simp [pinLevel, h]

theorem pinLevel_of_port {s : State} {d : PinDescriptor} (h : pinSource s d = .port) :
    pinLevel s d = bitsSet (nextDraw s) d.mask := by simp [pinLevel, h]

theorem nextDraw_congr {s t : State} (hs : t.script = s.script) (hd : t.draws = s.draws) :
    nextDraw t = nextDraw s := by simp only [nextDraw, hs, hd]

/-! ## A pin of a well-formed map (R29) -/

theorem wf_of_namesPin {s : State} (hw : s.cfg.pinMapWf = true) {p : PinId} {d : PinDescriptor}
    (h : namesPin s p d) : d.wf = true := by
  obtain ⟨hall, -⟩ := Bool.and_eq_true_iff.mp hw
  exact List.all_eq_true.mp hall d (List.mem_of_getElem? h.2)

theorem ne_zero_of_oneHot {m : Byte} (h : oneHot m = true) : m ≠ 0 := by
  rintro rfl
  exact absurd h (by decide)

theorem port_and_mask_of_wf {d : PinDescriptor} (h : d.wf = true) : (∃ q, d.port = some q) ∧ d.mask ≠ 0 := by
  simp only [PinDescriptor.wf, Bool.and_eq_true] at h
  obtain ⟨⟨⟨⟨hport, hmask⟩, -⟩, -⟩, -⟩ := h
  exact ⟨Option.isSome_iff_exists.mp hport, ne_zero_of_oneHot hmask⟩

/-! ## Frames (R135) -/

theorem pinDirection_eq (d : PinDescriptor) (out : Bool) (s : State) :
    ∃ l, pinDirection d out s = { s with dir := l } := by
  cases h : d.dir with
  | none => exact ⟨s.dir, pinDirection_of_absent h out s⟩
  | some k => exact ⟨_, pinDirection_of_handle h out s⟩

theorem pinLatch_eq (d : PinDescriptor) (level : Bool) (s : State) :
    ∃ l, pinLatch d level s = { s with lat := l } := by
  cases h : d.lat with
  | none => exact ⟨s.lat, pinLatch_of_absent h level s⟩
  | some k => exact ⟨_, pinLatch_of_handle h level s⟩

theorem pinAnalog_eq (d : PinDescriptor) (ana : Bool) (s : State) :
    ∃ l, pinAnalog d ana s = { s with ansel := l } := by
  cases h : d.ansel with
  | none => exact ⟨s.ansel, pinAnalog_of_absent h ana s⟩
  | some k => exact ⟨_, pinAnalog_of_handle h ana s⟩

theorem drawn_eq (s : State) : ∃ vs n, drawn s = { s with script := vs, draws := n } := by
  cases h : s.script with
  | nil => exact ⟨s.script, s.draws + 1, by simp [drawn, h]⟩
  | cons v vs => exact ⟨vs, s.draws, by simp [drawn, h]⟩

/-- A pin read uses up at most a draw. -/
theorem afterPinRead_frame (s : State) (d : PinDescriptor) :
    ∃ vs n, afterPinRead s d = { s with script := vs, draws := n } := by
  obtain h | h := afterPinRead_eq s d <;> rw [h]
  · exact ⟨s.script, s.draws, rfl⟩
  · exact drawn_eq s

theorem keepsBytesBut_afterPinRead (f : Reg → Bool) (s : State) (d : PinDescriptor) :
    keepsBytesBut f s (afterPinRead s d) := by
  obtain h | h := afterPinRead_eq s d <;> rw [h]
  · exact keepsBytesBut_refl f s
  · exact keepsBytesBut_drawn f s

/-- Writes of the port registers and of STAT, each exempt or none at all, and a response. -/
theorem keepsBytesBut_of_portRegisters {f : Reg → Bool} {s : State} {dirs ansels lats : List Byte} {x : Stat}
    {r : Option Word} (hdir : (∀ k, f (.dir k) = true) ∨ dirs = s.dir)
    (hansel : (∀ k, f (.ansel k) = true) ∨ ansels = s.ansel) (hlat : (∀ k, f (.lat k) = true) ∨ lats = s.lat)
    (hstat : f .stat = true ∨ x = s.stat) :
    keepsBytesBut f s { s with dir := dirs, ansel := ansels, lat := lats, stat := x, res := r } := by
  refine keepsBytesBut_of_agreeOn rfl fun q _ hf _ => ?_
  have same := agreeOn_refl s q
  cases q with
  | dir k => exact hdir.resolve_left fun h => by simp [h] at hf
  | ansel k => exact hansel.resolve_left fun h => by simp [h] at hf
  | lat k => exact hlat.resolve_left fun h => by simp [h] at hf
  | stat => exact hstat.resolve_left fun h => by simp [h] at hf
  | _ => exact same

/-- A pin command has a pin, or it writes at most STAT, and that only where the identifier is invalid. -/
theorem exec_onPin_cases {i : Instr} {p : PinId} {s t : State} (h : exec i s = .next t) (hi : onPin p i) :
    (∃ d, namesPin s p d)
      ∨ ∃ x r, t = { s with stat := x, res := r } ∧ (pinOk s.cfg p = true → x = s.stat) := by
  obtain rfl | hp | hbad := pinId_cases s p
  · rw [exec_onPin_null hi] at h
    injection h with h
    exact .inr ⟨s.stat, some 0, h.symm, fun _ => rfl⟩
  · exact .inl hp
  · rw [exec_onPin_invalid hi hbad] at h
    injection h with h
    exact .inr ⟨s.stat.record .invalidPin, some 0, h.symm, fun hok => by simp [hbad] at hok⟩

end Sys2Proof.Machine
end

section
open Sys2Proof Sys2Proof.Machine

/-- Settles O12: PINDIR OUT leaves the direction bit clear, so PINRD reads the latch bit PINWR set; with no latch it
reads the port bit of a draw that the two writes before it do not use up. -/
theorem pinRoundTrip : Obligations.PinRoundTrip := by
  intro s p d ho hw hshape hp hd
  obtain ⟨hdirLen, -, hlatLen, -⟩ := hshape
  obtain ⟨k, hk⟩ := Option.isSome_iff_exists.mp hd
  obtain ⟨⟨q, hq⟩, hm⟩ := port_and_mask_of_wf (wf_of_namesPin hw hp)
  have hkl : k < s.dir.length := hdirLen ▸ handles_lt_of_namesPin ho hp (.inl hk)
  let t₁ := complete 0 (pinDirection d true s)
  let t₂ := complete 0 (pinLatch d true t₁)
  have hp₁ : namesPin t₁ p d := by simpa [t₁, namesPin] using hp
  have hp₂ : namesPin t₂ p d := by simpa [t₂, namesPin] using hp₁
  have hout : isOutput t₂ d = true := by
    simp [isOutput_of_handle hk, t₂, t₁, pinDirection_dir hk, groupRead_groupWrite_same hkl, bitsSet_putBits hm]
  refine ⟨t₁, t₂, _, exec_pindir_of_namesPin hp true, exec_pinwr_of_namesPin hp₁ true, exec_pinrd_of_namesPin hp₂,
    ?_⟩
  cases hj : d.lat with
  | some j =>
    have hjl : j < s.lat.length := hlatLen ▸ handles_lt_of_namesPin ho hp (.inr (.inr (.inr hj)))
    have hset : bitsSet (groupRead t₂.lat j) d.mask = true := by
      simp [t₂, t₁, pinLatch_lat hj, groupRead_groupWrite_same hjl, bitsSet_putBits hm]
    simp [pinLevel_of_latch (pinSource_of_output hq hout hj), hset, bitWord]
  | none =>
    have hdraw : nextDraw t₂ = nextDraw s := nextDraw_congr (by simp [t₂, t₁]) (by simp [t₂, t₁])
    simp [pinLevel_of_port (pinSource_of_port hq (.inr hj)), hdraw, bitWord_bitsSet]

/-- Settles O14: off a pin, `exec_onPin_cases`; on a pin, each command is an update of its own field (`pinDirection_eq`,
`pinLatch_eq`, `pinAnalog_eq`, `afterPinRead_frame`). -/
theorem pinCommandsKeepEveryOtherByte : Obligations.PinCommandsKeepEveryOtherByte := by
  intro s t p v
  refine ⟨fun h => ?pindir, fun h => ?pinwr, fun h => ?pinana, fun h => ?pinrd⟩ <;>
    obtain ⟨d, hp⟩ | ⟨x, r, rfl, hx⟩ := exec_onPin_cases (p := p) h rfl
  case pindir.inl =>
    obtain ⟨l, hl⟩ := pinDirection_eq d v s
    rw [exec_pindir_of_namesPin hp, hl] at h
    injection h with h
    subst h
    exact ⟨rfl, fun _ => rfl, keepsBytesBut_of_portRegisters (.inl fun _ => rfl) (.inr rfl) (.inr rfl) (.inr rfl)⟩
  case pinwr.inl =>
    obtain ⟨l, hl⟩ := pinLatch_eq d v s
    rw [exec_pinwr_of_namesPin hp, hl] at h
    injection h with h
    subst h
    exact ⟨rfl, fun _ => rfl, keepsBytesBut_of_portRegisters (.inr rfl) (.inr rfl) (.inl fun _ => rfl) (.inr rfl)⟩
  case pinana.inl =>
    obtain ⟨l, hl⟩ := pinAnalog_eq d v s
    rw [exec_pinana_of_namesPin hp, hl] at h
    injection h with h
    subst h
    exact ⟨rfl, fun _ => rfl, keepsBytesBut_of_portRegisters (.inr rfl) (.inl fun _ => rfl) (.inr rfl) (.inr rfl)⟩
  case pinrd.inl =>
    obtain ⟨vs, n, hread⟩ := afterPinRead_frame s d
    rw [exec_pinrd_of_namesPin hp] at h
    injection h with h
    subst h
    exact ⟨by rw [hread]; rfl, by simp, keepsBytesBut_complete (keepsBytesBut_afterPinRead _ s d) _⟩
  all_goals exact ⟨rfl, hx, keepsBytesBut_of_portRegisters (.inr rfl) (.inr rfl) (.inr rfl) (.inl rfl)⟩

/-- Settles O8: the null pin, a pin without the register and a pin with it. -/
theorem pindirWritesTheDirectionBit : Obligations.PindirWritesTheDirectionBit := by
  refine ⟨fun _ _ => exec_onPin_null rfl, fun s p d out hp => ⟨fun hd => ?absent, fun k hk => ?present⟩⟩ <;>
    rw [exec_pindir_of_namesPin hp]
  case absent => rw [pinDirection_of_absent hd]; rfl
  case present => rw [pinDirection_of_handle hk]; cases out <;> rfl

/-- Settles O9: the null pin, a pin without the register and a pin with it. -/
theorem pinwrWritesTheLatchBit : Obligations.PinwrWritesTheLatchBit := by
  refine ⟨fun _ _ => exec_onPin_null rfl, fun s p d level hp => ⟨fun hd => ?absent, fun k hk => ?present⟩⟩ <;>
    rw [exec_pinwr_of_namesPin hp]
  case absent => rw [pinLatch_of_absent hd]; rfl
  case present => rw [pinLatch_of_handle hk]; rfl

/-- Settles O10: the null pin, a pin without the register and a pin with it. -/
theorem pinanaWritesTheAnalogBit : Obligations.PinanaWritesTheAnalogBit := by
  refine ⟨fun _ _ => exec_onPin_null rfl, fun s p d ana hp => ⟨fun hd => ?absent, fun k hk => ?present⟩⟩ <;>
    rw [exec_pinana_of_namesPin hp]
  case absent => rw [pinAnalog_of_absent hd]; rfl
  case present => rw [pinAnalog_of_handle hk]; rfl

/-- Settles O11: the null pin, and on a pin the three sources of `pinSource`. -/
theorem pinrdReadsTheLatchOrThePort : Obligations.PinrdReadsTheLatchOrThePort := by
  refine ⟨fun _ => exec_onPin_null rfl, fun s p d hp => ⟨fun hq => ?nothing, fun q k j hq hk hclear hj => ?latch,
    fun q hq hin => ?port⟩⟩ <;> rw [exec_pinrd_of_namesPin hp]
  case nothing => rw [pinLevel, afterPinRead, pinSource_of_no_port hq]; rfl
  case latch =>
    have hout : isOutput s d = true := by rw [isOutput_of_handle hk, bitsSet, groupRead, hclear]; decide
    have hsrc := pinSource_of_output hq hout hj
    rw [pinLevel_of_latch hsrc, bitWord_bitsSet, afterPinRead, hsrc]
    rfl
  case port =>
    have hsrc := pinSource_of_port hq (by rwa [isOutput_eq_false_iff, or_assoc])
    rw [pinLevel_of_port hsrc, bitWord_bitsSet, afterPinRead, hsrc]
    rfl

end

section
/-! PROOF. The timer unit (spec/41_timer.md): what TMRTICK does in either context (R152, R153), the counters after any
number of ticks (R154), and which steps move the unit between its two states (R150). -/

namespace Sys2Proof.Machine

/-! ## TMRINIT and TMRTICK as equations (R151 to R153) -/

theorem prescale_of_freqRow {c : Config} {row : FreqRow} (h : c.freqTable.find? (fun r => r.freq == c.fClk) = some row) :
    c.prescale = row.prescale := by
  simp [Config.prescale, Config.freqRow, h]

theorem exec_tmrinit_counters {s t : State} (h : exec .tmrinit s = .next t) :
    t.cfg = s.cfg ∧ t.tmrms = 0 ∧ t.tmrus = 0 := by
  injection h with h
  subst h
  exact ⟨rfl, rfl, rfl⟩

theorem exec_tmrtick_of_int {s : State} (h : s.ctx = .int) : exec .tmrtick s = .next (timerTick s) := by
  simp [exec, execTmrtick, h]

theorem exec_tmrtick_of_bg {s : State} (h : s.ctx = .bg) :
    exec .tmrtick s = .next (dropCommand .wrongContext s) := by
  simp [exec, execTmrtick, h]

/-! ## The counters (R152, R154) -/

theorem timerTick_tmrus (s : State) : (timerTick s).tmrus.toNat = (s.tmrus.toNat + s.cfg.tickUs) % 1000 := by
  rw [(timerTick_sets s).2.1, BitVec.toNat_ofNat, tickAcc]
  omega

theorem timerTick_tmrms (s : State) :
    (timerTick s).tmrms.toNat = (s.tmrms.toNat + (s.tmrus.toNat + s.cfg.tickUs) / 1000) % 2 ^ 32 := by
  simp [tickAcc]

theorem timerInv_timerTick (s : State) : TimerInv (timerTick s) := by
  rw [TimerInv, timerTick_tmrus]
  omega

theorem ticks_cfg (n : Nat) (s : State) : (ticks n s).cfg = s.cfg := by
  induction n with
  | zero => rfl
  | succ k ih => simp [ticks, ih]

/-- From any counters that meet the timer's invariant, n ticks add n * TICK_US microseconds to them. -/
theorem ticks_counters (n : Nat) {s : State} (h : TimerInv s) :
    (ticks n s).tmrus.toNat = (s.tmrus.toNat + n * s.cfg.tickUs) % 1000
      ∧ (ticks n s).tmrms.toNat = (s.tmrms.toNat + (s.tmrus.toNat + n * s.cfg.tickUs) / 1000) % 2 ^ 32 := by
  rw [TimerInv] at h
  induction n with
  | zero =>
    have hms := s.tmrms.isLt
    rw [ticks]
    omega
  | succ k ih =>
    obtain ⟨hus, hms⟩ := ih
    rw [ticks, timerTick_tmrus, timerTick_tmrms, ticks_cfg, hus, hms, Nat.succ_mul]
    omega

/-! ## Uninitialized and Running (R150) -/

@[simp] theorem Stat.record_tmrRun (t : Stat) (c : Cause) : (t.record c).tmrRun = t.tmrRun := rfl

theorem exec_tmrRun {i : Instr} {s t : State} (h : exec i s = .next t) :
    t.stat.tmrRun = s.stat.tmrRun ∨ (i = .tmrinit ∧ t.stat.tmrRun = true) := by
  cases exec_cases h with
  | tmrinit hi ht => exact .inr ⟨hi, by simp [ht]⟩
  | _ => rename_i ht; exact .inl (by simp [ht])

/-- What a step does to TMR_RUN: TMRINIT alone sets it, `rst` alone clears it. -/
theorem step_tmrRun {s t : State} (h : step s = .next t) :
    t.stat.tmrRun = s.stat.tmrRun ∨ (runsNext s .tmrinit ∧ t.stat.tmrRun = true)
      ∨ (s.moves.head? = some .rst ∧ t.stat.tmrRun = false) := by
  obtain ⟨m, ms, hm, -, rfl⟩ | ⟨hb, hcase⟩ := step_cases h
  · by_cases hrst : m = .rst
    · subst hrst; exact .inr (.inr ⟨by simp [hm], rfl⟩)
    · exact .inl (by simp [envMove_keeps hrst])
  · cases hcase with
    | run w ws i hs hc hq hw hd ht =>
      obtain heq | ⟨rfl, hset⟩ := exec_tmrRun ht
      · exact .inl (by simpa using heq)
      · exact .inr (.inl ⟨runsNext_of_run (ok_of_step h) hb hs hc hq hw hd, hset⟩)
    | _ => rename_i ht; exact .inl (by simp [ht])

end Sys2Proof.Machine
end

section
open Sys2Proof Sys2Proof.Machine

/-- Settles O17: TMRINIT leaves both counters 0, from where `ticks_counters` counts. -/
theorem ticksCountMicroseconds : Obligations.TicksCountMicroseconds := by
  refine ⟨fun u hu => ⟨exec_tmrtick_of_int hu, timerInv_timerTick u⟩, fun s t h => ?_⟩
  obtain ⟨hcfg, hms, hus⟩ := exec_tmrinit_counters h
  have hinv : TimerInv t := by simp [TimerInv, hus]
  exact ⟨hinv, fun n => by simpa [hcfg, hms, hus] using ticks_counters n hinv⟩

/-- Settles O19: the three cases of `step_tmrRun`. -/
theorem timerRunsUntilReset : Obligations.TimerRunsUntilReset := by
  intro s t h
  obtain heq | ⟨hrun, hset⟩ | ⟨hrst, hclear⟩ := step_tmrRun h
  · exact ⟨fun hs _ => heq.trans hs, fun hs ht => by simp [heq, hs] at ht⟩
  · exact ⟨fun _ _ => hset, fun _ _ => hrun⟩
  · exact ⟨fun _ hne => absurd hrst hne, fun _ ht => by simp [hclear] at ht⟩

/-- Settles O15: the command's one state, its prescale that of the table's row. -/
theorem tmrinitStartsTheTimer : Obligations.TmrinitStartsTheTimer := by
  intro s row hrow
  rw [← prescale_of_freqRow hrow]
  rfl

/-- Settles O16: the tick's body in interrupt context; at an open port the context is background, where the command is
dropped. -/
theorem tickCarriesWholeMilliseconds : Obligations.TickCarriesWholeMilliseconds := by
  refine ⟨fun s hs => ⟨timerTick s, exec_tmrtick_of_int hs, rfl, timerTick_tmrms s, timerTick_tmrus s⟩,
    fun s rest haccepts => ?port⟩
  have ⟨_, _, hopen, _⟩ := haccepts
  obtain ⟨-, hbg, -⟩ := portOpen_iff.mp hopen
  rw [stepRunsTheDecodedCommand s _ rest .tmrtick haccepts (decode_encode .tmrtick),
    exec_tmrtick_of_bg (s := accepted s rest) hbg]
  rfl

end

section
/-! PROOF. The baud-rate generator (spec/42_serial_init_brg.md): the pair `brg_select` accepts (R166, R167, R170) and
the rate it achieves (R174). -/

namespace Sys2Proof.Machine

/-! ## Which pair is accepted (R167, R170) -/

/-- No tier's band holds a negative divisor. -/
theorem toNat_of_tierAccepts {t : Tier} {x : Int} (h : tierAccepts t x = true) : (x.toNat : Int) = x := by
  simp only [tierAccepts, Bool.and_eq_true, decide_eq_true_eq] at h
  omega

theorem tierAccepts_natCast_iff {t : Tier} {d : Nat} : tierAccepts t d = true ↔ t.min ≤ d ∧ d ≤ t.max := by
  simp [tierAccepts]

theorem tierAccepts_eq_false_iff {t : Tier} {x : Int} :
    tierAccepts t x = false ↔ x < t.min ∨ (t.max : Int) < x := by
  simp [tierAccepts, imp_iff_not_or]

/-- The i-th tier of a list accepts its own divisor d, and no earlier one does. -/
def selects (f b : Nat) (ts : List Tier) (i d : Nat) : Prop :=
  (∃ t, ts[i]? = some t ∧ (d : Int) = tierDivisor f b t.scale ∧ tierAccepts t d = true)
    ∧ ∀ j t, j < i → ts[j]? = some t → tierAccepts t (tierDivisor f b t.scale) = false

theorem selects_cons_of_accepts {f b : Nat} {t : Tier} {ts : List Tier} {i d : Nat}
    (h : tierAccepts t (tierDivisor f b t.scale) = true) :
    selects f b (t :: ts) i d ↔ i = 0 ∧ d = (tierDivisor f b t.scale).toNat := by
  have hnat := toNat_of_tierAccepts h
  constructor
  · rintro ⟨⟨t', ht, hd, -⟩, hbefore⟩
    obtain rfl : i = 0 := by
      by_contra hi
      simpa [h] using hbefore 0 t (Nat.pos_of_ne_zero hi) rfl
    cases ht
    omega
  · rintro ⟨rfl, rfl⟩
    exact ⟨⟨t, rfl, hnat, by rwa [hnat]⟩, fun j _ hj => absurd hj (Nat.not_lt_zero j)⟩

/-- What holds of the head holds of each tier before the (i + 1)-th if it holds of those before the tail's i-th. -/
theorem forall_before_cons {t : Tier} {ts : List Tier} {i : Nat} {p : Tier → Prop} (h : p t) :
    (∀ j t', j < i + 1 → (t :: ts)[j]? = some t' → p t') ↔ ∀ j t', j < i → ts[j]? = some t' → p t' := by
  refine ⟨fun hall j t' hj => hall (j + 1) t' (Nat.succ_lt_succ hj), fun hall j t' hj ht => ?_⟩
  cases j with
  | zero => cases ht; exact h
  | succ j => exact hall j t' (Nat.lt_of_succ_lt_succ hj) ht

theorem selects_cons_of_rejects {f b : Nat} {t : Tier} {ts : List Tier} {i d : Nat}
    (h : tierAccepts t (tierDivisor f b t.scale) = false) :
    selects f b (t :: ts) i d ↔ ∃ j, i = j + 1 ∧ selects f b ts j d := by
  cases i with
  | zero => simp_all [selects]
  | succ i =>
    have hbefore := forall_before_cons (ts := ts) (i := i)
      (p := fun t => tierAccepts t (tierDivisor f b t.scale) = false) h
    have hselects : selects f b (t :: ts) (i + 1) d ↔ selects f b ts i d := and_congr_right' hbefore
    simp [hselects]

theorem firstTier_eq_some_iff {f b k n d : Nat} {ts : List Tier} :
    firstTier f b k ts = some (n, d) ↔ ∃ i, n = k + i ∧ selects f b ts i d := by
  induction ts generalizing k with
  | nil => simp [firstTier, selects]
  | cons t ts ih =>
    cases h : tierAccepts t (tierDivisor f b t.scale) with
    | true => simp [firstTier, h, selects_cons_of_accepts h, eq_comm]
    | false =>
      simp only [firstTier, h, Bool.false_eq_true, if_false, ih, selects_cons_of_rejects h]
      constructor
      · rintro ⟨i, rfl, hi⟩
        exact ⟨i + 1, by omega, i, rfl, hi⟩
      · rintro ⟨_, rfl, i, rfl, hi⟩
        exact ⟨i, by omega, hi⟩

theorem brgSelect_eq_some_iff {c : Config} {b i d : Nat} :
    brgSelect c b = some (i, d) ↔ b ≠ 0 ∧ selects c.fClk b c.tiers i d := by
  by_cases hb : b = 0
  · simp [brgSelect, hb]
  · simp [brgSelect, hb, firstTier_eq_some_iff]

/-! ## The achieved rate (R174) -/

theorem tier_ok_of_ok {c : Config} (h : c.ok = true) {t : Tier} (ht : t ∈ c.tiers) :
    0 < t.scale ∧ t.max ≤ 65535 := by
  obtain ⟨-, -, -, -, -, -, -, -, -, -, -, -, -, -, -, -, htiers, -⟩ := of_decide_eq_true h
  simpa [Tier.ok] using htiers t ht

theorem tierScale_of_getElem? {c : Config} {i : Nat} {t : Tier} (h : c.tiers[i]? = some t) :
    tierScale c i = t.scale := by
  simp [tierScale, h]

/-- The accepted divisor is the quotient less 1, and fits the 16 bits of BRG_DIV. -/
theorem divisor_of_brgSelect {c : Config} (ho : c.ok = true) {b i d : Nat} {t : Tier}
    (h : brgSelect c b = some (i, d)) (ht : c.tiers[i]? = some t) :
    0 < t.scale ∧ d + 1 = c.fClk / b / t.scale ∧ d < 2 ^ 16 := by
  obtain ⟨-, ⟨t', ht', hd, hacc⟩, -⟩ := brgSelect_eq_some_iff.mp h
  obtain rfl : t = t' := Option.some.inj (ht.symm.trans ht')
  obtain ⟨hscale, hmax⟩ := tier_ok_of_ok ho (List.mem_of_getElem? ht)
  have hband := tierAccepts_natCast_iff.mp hacc
  unfold tierDivisor at hd
  omega

theorem achieved_of_brgSelect {c : Config} (ho : c.ok = true) {b i d : Nat} {t : Tier}
    (h : brgSelect c b = some (i, d)) (ht : c.tiers[i]? = some t) :
    achieved c i d = c.fClk / ((d + 1) * t.scale) ∧ 1 ≤ achieved c i d ∧ achieved c i d < 2 ^ 32 := by
  obtain ⟨hscale, hd, -⟩ := divisor_of_brgSelect ho h ht
  have heq : achieved c i d = c.fClk / ((d + 1) * t.scale) := by rw [achieved, tierScale_of_getElem? ht]
  have hle : (d + 1) * t.scale ≤ c.fClk := calc
    (d + 1) * t.scale = c.fClk / b / t.scale * t.scale := by rw [hd]
    _ ≤ c.fClk / b := Nat.div_mul_le_self ..
    _ ≤ c.fClk := Nat.div_le_self ..
  have hpos : 0 < (d + 1) * t.scale := Nat.mul_pos d.succ_pos hscale
  refine ⟨heq, ?_, ?_⟩ <;> rw [heq]
  · exact Nat.div_pos hle hpos
  · exact (Nat.div_le_self ..).trans_lt (Config.ok_bounds ho).1

end Sys2Proof.Machine
end

section
open Sys2Proof Sys2Proof.Machine

/-- Settles O20: `brgSelect_eq_some_iff`, with each band written out. -/
theorem coarsestAcceptingTierIsSelected : Obligations.CoarsestAcceptingTierIsSelected := by
  intro c baud i d
  simp only [brgSelect_eq_some_iff, selects, tierAccepts_natCast_iff, tierAccepts_eq_false_iff, tierDivisor]

/-- Settles O21: the accepted divisor plus 1, times the scale, is at most F_CLK. -/
theorem achievedRateIsNeverZero : Obligations.AchievedRateIsNeverZero :=
  fun _ _ _ _ _ ho h ht => achieved_of_brgSelect ho h ht

end

section
/-! PROOF. SERINIT (spec/42_serial_init_brg.md R171 to R182): its three branches, what binding a receive and a transmit
pin comes to (R175, R176), and the levels its sub-steps pass (R177). -/

namespace Sys2Proof.Machine

/-! ## The branches of the command (R171, R172) -/

theorem exec_serinit_of_selected {s : State} {rc tx : PinId} {i d : Nat} (hrc : pinOk s.cfg rc = true)
    (htx : pinOk s.cfg tx = true) (hsel : brgSelect s.cfg s.arg.toNat = some (i, d)) :
    exec (.serinit rc tx) s =
      .next (complete (BitVec.ofNat 32 (achieved s.cfg i d)) (serialSetup i d rc tx s)) := by
  simp [exec, execSerinit, hrc, htx, hsel]

theorem exec_serinit_of_no_tier {s : State} {rc tx : PinId} (hrc : pinOk s.cfg rc = true)
    (htx : pinOk s.cfg tx = true) (hsel : brgSelect s.cfg s.arg.toNat = none) :
    exec (.serinit rc tx) s = .next (complete 0 s) := by
  simp [exec, execSerinit, hrc, htx, hsel]

theorem exec_serinit_of_badPin {s : State} {rc tx : PinId} (h : ¬ (pinOk s.cfg rc = true ∧ pinOk s.cfg tx = true)) :
    exec (.serinit rc tx) s = .next (dropCommand .invalidPin s) := by
  simp [exec, execSerinit, h]

/-! ## The pins (R175, R176) -/

theorem namesPin_of_pinOk {s : State} {p : PinId} (h : pinOk s.cfg p = true) (hp : p ≠ nullPin) :
    ∃ d, namesPin s p d := by
  obtain hnull | hd | hbad := pinId_cases s p
  · exact absurd hnull hp
  · exact hd
  · simp [hbad] at h

theorem namesPin_of_routedPin {s : State} {p : PinId} (h : routedPin s.cfg p) :
    ∃ d, namesPin s p d ∧ d.route = true := by
  obtain ⟨hp, hroute⟩ := h
  obtain ⟨d, hd, hr⟩ := (Option.any_eq_true _ _).mp hroute
  exact ⟨d, ⟨hp, hd⟩, hr⟩

theorem bindRx_null (s : State) : bindRx nullPin s = { s with rcbound := nullPin } :=
  bindRx_of_no_pin (by simp [pinOperand_null])

theorem bindRx_of_namesPin {s : State} {rc : PinId} {d : PinDescriptor} (h : namesPin s rc d) :
    bindRx rc s =
      { pinDirection d false (pinAnalog d false (clearRxqbuf { s with rcbound := rc, rxqlen := 0 })) with
        rxsel := d.af, uctl := { s.uctl with rxEn := true } } :=
  bindRx_of_pin (pinOperand_of_namesPin h)

theorem bindTx_of_namesPin {s : State} {tx : PinId} {d : PinDescriptor} (h : namesPin s tx d) (hr : d.route = true) :
    bindTx tx s =
      { pinDirection d true (pinAnalog d false { s with txbound := tx }) with
        route := groupWrite s.route tx.toNat s.cfg.txFuncCode, uctl := { s.uctl with txEn := true } } :=
  bindTx_of_routed (pinOperand_of_namesPin h) hr

theorem bindTx_of_not_routedPin {s : State} {tx : PinId} (h : ¬ routedPin s.cfg tx) :
    bindTx tx s = { s with txbound := nullPin } := by
  refine bindTx_of_not_routed fun i d hd => Bool.eq_false_of_not_eq_true fun hr => ?_
  have hp : tx ≠ nullPin := by rintro rfl; simp [pinOperand_null] at hd
  exact h ⟨hp, hasRoute_of_pinOperand hd hr⟩

/-- Of UCTL `bind_rx` writes RX_EN alone (`bindRx_tier` says it of the tier). -/
@[simp] theorem bindRx_uctl (rc : PinId) (s : State) :
    (bindRx rc s).uctl.uartEn = s.uctl.uartEn ∧ (bindRx rc s).uctl.txEn = s.uctl.txEn := by
  unfold bindRx bindRxSteps
  split <;> simp

/-- Of UCTL `bind_tx` writes TX_EN alone (`bindTx_tier` says it of the tier). -/
@[simp] theorem bindTx_uctl (tx : PinId) (s : State) :
    (bindTx tx s).uctl.uartEn = s.uctl.uartEn ∧ (bindTx tx s).uctl.rxEn = s.uctl.rxEn := by
  unfold bindTx bindTxSteps
  split
  · split <;> simp
  · simp

theorem rxqbuf_bindRx {s : State} {rc : PinId} {d : PinDescriptor} (h : namesPin s rc d) {k : Nat}
    (hk : k < s.cfg.rxCap) : rxqbuf (bindRx rc s) k = 0 := by
  rw [← rxqbuf_clearRxqbuf s k hk, bindRx_of_namesPin h]
  exact bufferRead_congr (by simp) (by simp) _

/-! ## What SERINIT leaves alone (R178) -/

theorem txqbuf_clearRxqbuf {s : State} (h : s.cfg.rxCap ≤ 255) (k : Nat) : txqbuf (clearRxqbuf s) k = txqbuf s k := by
  have hout : ¬ (rxBufAddr 0 ≤ txBufAddr k ∧ txBufAddr k < rxBufAddr 0 + s.cfg.rxCap) := by
    simp only [rxBufAddr, txBufAddr]
    omega
  simp [txqbuf, bufferRead, Memory.read_fill, hout]

theorem txqbuf_bindRx {s : State} (h : s.cfg.rxCap ≤ 255) (rc : PinId) (k : Nat) :
    txqbuf (bindRx rc s) k = txqbuf s k := by
  cases hp : pinOperand s.cfg rc with
  | pin n d =>
    rw [← txqbuf_clearRxqbuf h k, bindRx_of_pin hp]
    exact bufferRead_congr (by simp) (by simp) _
  | null | invalid =>
    rw [bindRx_of_no_pin (by simp [hp])]
    rfl

theorem txqbuf_serialSetup {s : State} (h : s.cfg.rxCap ≤ 255) (i d : Nat) (rc tx : PinId) (k : Nat) :
    txqbuf (serialSetup i d rc tx s) k = txqbuf s k := by
  have hb : (programBrg i d s).cfg.rxCap ≤ 255 := h
  calc txqbuf (serialSetup i d rc tx s) k
    _ = txqbuf (bindRx rc (programBrg i d s)) k := by
      rw [serialSetup_eq]
      exact bufferRead_congr (by simp) (by simp) _
    _ = txqbuf (programBrg i d s) k := txqbuf_bindRx hb rc k
    _ = txqbuf s k := rfl

theorem serialSetup_frame (i d : Nat) (rc tx : PinId) (s : State) :
    let t := serialSetup i d rc tx s
    t = { s with
      uctl := t.uctl, brgl := t.brgl, brgh := t.brgh, dir := t.dir, ansel := t.ansel, route := t.route
      rxsel := t.rxsel, mem := t.mem, rxqlen := t.rxqlen, serr := t.serr, rcbound := t.rcbound
      txbound := t.txbound } := by
  have hkeeps := serialSetup_keeps i d rc tx s
  generalize serialSetup i d rc tx s = t at hkeeps
  cases t
  simpa using hkeeps

/-- The registers a SERINIT writes, and IFLG, whose tx_ready the enables enter (R41). -/
def serinitWrites : Reg → Bool
  | .uctl | .brgl | .brgh | .rxsel | .rxqlen | .serr | .rcbound | .txbound | .stat | .iflg => true
  | .dir _ | .ansel _ | .route _ | .rxqbuf _ => true
  | _ => false

theorem keepsBytesBut_serialSetup {s : State} (h : s.cfg.rxCap ≤ 255) (i d : Nat) (rc tx : PinId) :
    keepsBytesBut serinitWrites s (serialSetup i d rc tx s) := by
  refine keepsBytesBut_of_agreeOn (by simp) fun r _ hf _ => ?_
  cases r with
  | uctl | brgl | brgh | rxsel | rxqlen | serr | rcbound | txbound | stat | iflg | dir | ansel | route | rxqbuf =>
    cases hf
  | usta => exact ⟨by simp, fun _ => nextDraw_congr (by simp) (by simp)⟩
  | portin p => exact nextDraw_congr (by simp) (by simp)
  | txqbuf k => exact txqbuf_serialSetup h i d rc tx k
  | _ => simp [agreeOn]

/-- A SERINIT sets the UART up, or it writes at most STAT, and that only where a pin is invalid. -/
theorem exec_serinit_cases {s t : State} {rc tx : PinId} (h : exec (.serinit rc tx) s = .next t) :
    (∃ i d r, t = complete r (serialSetup i d rc tx s))
      ∨ ∃ x r, t = { s with stat := x, res := r }
        ∧ (pinOk s.cfg rc = true → pinOk s.cfg tx = true → x = s.stat) := by
  by_cases hpins : pinOk s.cfg rc = true ∧ pinOk s.cfg tx = true
  · obtain ⟨hrc, htx⟩ := hpins
    cases hsel : brgSelect s.cfg s.arg.toNat with
    | none =>
      rw [exec_serinit_of_no_tier hrc htx hsel] at h
      injection h with h
      exact .inr ⟨s.stat, some 0, h.symm, fun _ _ => rfl⟩
    | some p =>
      obtain ⟨i, d⟩ := p
      rw [exec_serinit_of_selected hrc htx hsel] at h
      injection h with h
      exact .inl ⟨i, d, _, h.symm⟩
  · rw [exec_serinit_of_badPin hpins] at h
    injection h with h
    exact .inr ⟨s.stat.record .invalidPin, some 0, h.symm, fun hrc htx => absurd ⟨hrc, htx⟩ hpins⟩

/-! ## The baud clock (R165, R180) -/

/-- BRGH and BRGL put together are the divisor whose halves they hold (R40, R171). -/
theorem brgDiv_toNat_of_halves {s : State} {d : Nat} (hd : d < 2 ^ 16) (hl : s.brgl = BitVec.ofNat 8 d)
    (hh : s.brgh = BitVec.ofNat 8 (d / 256)) : (brgDiv s).toNat = d := by
  have hhigh : d / 256 % 2 ^ 8 = d / 256 := Nat.mod_eq_of_lt (by omega)
  rw [brgDiv, hl, hh, BitVec.toNat_append, ← Nat.shiftLeft_add_eq_or_of_lt (BitVec.isLt _), BitVec.toNat_ofNat,
    BitVec.toNat_ofNat, hhigh, Nat.shiftLeft_eq]
  omega

theorem clockDivider_of_tier {s : State} {i d : Nat} (hi : i < 4) (ht : s.uctl.tier = BitVec.ofNat 2 i)
    (hd : (brgDiv s).toNat = d) : clockDivider s = (d + 1) * tierScale s.cfg i := by
  simp [clockDivider, ht, hd, Nat.mod_eq_of_lt hi]

theorem floor_clock_div (c : Config) (i d : Nat) :
    ⌊(c.fClk : Rat) / (((d + 1) * tierScale c i : Nat) : Rat)⌋ = (achieved c i d : Int) := by
  rw [Rat.floor_natCast_div_natCast, achieved, Int.natCast_ediv]

end Sys2Proof.Machine
end

section
open Sys2Proof Sys2Proof.Machine

/-- Settles O24: with no tier selected the command only responds. -/
theorem failedSerinitWritesNothing : Obligations.FailedSerinitWritesNothing :=
  fun _ _ _ => exec_serinit_of_no_tier

/-- Settles O22: the generator's registers, then `bind_rx` and `bind_tx` on a pin or none (R175, R176). -/
theorem serinitProgramsAndBinds : Obligations.SerinitProgramsAndBinds := by
  intro s rc tx i d hrc htx hsel
  refine ⟨_, exec_serinit_of_selected hrc htx hsel, rfl, ?_⟩
  rw [serialSetup_eq]
  refine ⟨by simp [bindTx_tier, bindRx_tier], by simp, by simp, by simp, by simp, by simp [bindRx_rcbound],
    fun hnull => ?no_receive_pin, fun dr hp => ?receive_pin, fun h => ?unrouted, fun h => ?routed⟩
  case no_receive_pin => subst hnull; simp [bindRx_null]
  case receive_pin =>
    have hp : namesPin (programBrg i d s) rc dr := hp
    refine ⟨by simp [bindRx_of_namesPin hp], fun k hk => ?_, by simp [bindRx_of_namesPin hp],
      by simp [bindRx_of_namesPin hp]⟩
    rw [← rxqbuf_bindRx hp hk]
    exact bufferRead_congr (by simp) (by simp) _
  case unrouted =>
    have h : ¬ routedPin (bindRx rc (programBrg i d s)).cfg tx := by simpa using h
    simp [bindTx_of_not_routedPin h]
  case routed =>
    have h : routedPin (bindRx rc (programBrg i d s)).cfg tx := by simpa using h
    obtain ⟨dt, hp, hr⟩ := namesPin_of_routedPin h
    simp [bindTx_of_namesPin hp hr, groupWrite]

/-- Settles O25: the frames of the two kinds of SERINIT (`exec_serinit_cases`). -/
theorem serinitKeepsTheRest : Obligations.SerinitKeepsTheRest := by
  intro s rc tx t ho h
  obtain ⟨-, -, -, -, -, -, hcap, -⟩ := Config.ok_bounds ho
  obtain ⟨i, d, r, rfl⟩ | ⟨x, r, rfl, hx⟩ := exec_serinit_cases h
  · refine ⟨?_, fun _ _ => by simp, fun k _ => txqbuf_serialSetup hcap i d rc tx k,
      keepsBytesBut_complete (keepsBytesBut_serialSetup hcap i d rc tx) r⟩
    simp only [complete_keeps, serialSetup_keeps]
    exact congrArg (complete r) (serialSetup_frame i d rc tx s)
  · exact ⟨rfl, hx, fun _ _ => rfl,
      keepsBytesBut_of_portRegisters (.inr rfl) (.inr rfl) (.inr rfl) (.inl rfl)⟩

/-- Settles O27: BRGH and BRGL put together are the accepted divisor, and UCTL.TIER selects its tier. -/
theorem symbolRateIsTheAchievedRate : Obligations.SymbolRateIsTheAchievedRate := by
  intro s rc tx i d ho hrc htx hsel
  obtain ⟨t, hexec, hres, htier, hl, hh, -, hen, -⟩ := serinitProgramsAndBinds s rc tx i d hrc htx hsel
  have hcfg : t.cfg = s.cfg := (exec_keeps hexec).1
  have hi := brgSelect_index_lt hsel
  have hd := (divisor_of_brgSelect ho hsel (List.getElem?_eq_getElem hi)).2.2
  have hdiv := brgDiv_toNat_of_halves hd hl hh
  have hclock := clockDivider_of_tier (hi.trans_le (tiers_length_of_ok ho).2) htier hdiv
  rw [hcfg] at hclock
  have hfloor := floor_clock_div s.cfg i d
  refine ⟨t, _, hexec, by rw [symbolRate, if_pos hen, hclock, hcfg], hdiv, ?_, hfloor⟩
  rw [hfloor, hres, Int.toNat_natCast]

end

section
/-! PROOF. The pins a SERINIT configures, and the levels its outputs go through (R175 to R177, R181). -/

namespace Sys2Proof.Machine

/-! ## The level outputs after each sub-step (R43, R137) -/

theorem outputs_programBrg (i d : Nat) (s : State) :
    outputs (programBrg i d s) =
      { outputs s with tierO := BitVec.ofNat 2 i, brgDivO := BitVec.ofNat 8 (d / 256) ++ BitVec.ofNat 8 d } := rfl

theorem outputs_enableUart (s : State) : outputs (enableUart s) = { outputs s with uartEnO := true } := rfl

/-- The last level is the one the sub-steps leave. -/
theorem getLast?_levelsInOrder {fs : List (State → State)} (h : fs ≠ []) (s : State) :
    (levelsInOrder fs s).getLast? = some (outputs (inOrder fs s)) := by
  rw [← List.dropLast_append_getLast h]
  simp

theorem uartEnO_levelsInOrder {fs : List (State → State)} (h : ∀ f ∈ fs, ∀ s, (f s).uctl.uartEn = s.uctl.uartEn)
    (s : State) : ∀ x ∈ levelsInOrder fs s, x.uartEnO = s.uctl.uartEn := by
  induction fs generalizing s with
  | nil => simp
  | cons f fs ih =>
    have hf := h f List.mem_cons_self s
    intro x hx
    rcases List.mem_cons.mp hx with rfl | hx
    · exact hf
    · exact (ih (fun g hg => h g (List.mem_cons_of_mem f hg)) (f s) x hx).trans hf

/-! ## The pins as the pin commands leave them (R175, R176) -/

/-- What PINANA to digital and then PINDIR leave of a pin. -/
def digital (d : PinDescriptor) (out : Bool) (s : State) : State :=
  complete 0 (pinDirection d out (complete 0 (pinAnalog d false s)))

theorem exec_pinana_pindir {s : State} {p : PinId} {d : PinDescriptor} (h : namesPin s p d) (out : Bool) :
    ∃ u₁, exec (.pinana p false) s = .next u₁ ∧ exec (.pindir p out) u₁ = .next (digital d out s) := by
  have h₁ : namesPin (complete 0 (pinAnalog d false s)) p d := by simpa [namesPin] using h
  exact ⟨_, exec_pinana_of_namesPin h false, exec_pindir_of_namesPin h₁ out⟩

theorem pinDirection_dir_congr {s t : State} (h : t.dir = s.dir) (d : PinDescriptor) (out : Bool) :
    (pinDirection d out t).dir = (pinDirection d out s).dir := by
  cases hd : d.dir <;> simp [pinDirection, hd, h]

theorem pinAnalog_ansel_congr {s t : State} (h : t.ansel = s.ansel) (d : PinDescriptor) (ana : Bool) :
    (pinAnalog d ana t).ansel = (pinAnalog d ana s).ansel := by
  cases hd : d.ansel <;> simp [pinAnalog, hd, h]

theorem digital_pins (d : PinDescriptor) (out : Bool) (s : State) :
    (digital d out s).dir = (pinDirection d out s).dir ∧ (digital d out s).ansel = (pinAnalog d false s).ansel :=
  ⟨pinDirection_dir_congr (by simp) d out, by simp [digital]⟩

theorem bindRx_pins {s : State} {rc : PinId} {d : PinDescriptor} (h : namesPin s rc d) :
    (bindRx rc s).dir = (pinDirection d false s).dir ∧ (bindRx rc s).ansel = (pinAnalog d false s).ansel := by
  simp only [bindRx_of_namesPin h, pinDirection_keeps]
  exact ⟨pinDirection_dir_congr (by simp) d false, pinAnalog_ansel_congr (by simp) d false⟩

theorem bindTx_pins {s : State} {tx : PinId} {d : PinDescriptor} (h : namesPin s tx d) (hr : d.route = true) :
    (bindTx tx s).dir = (pinDirection d true s).dir ∧ (bindTx tx s).ansel = (pinAnalog d false s).ansel := by
  simp only [bindTx_of_namesPin h hr, pinDirection_keeps]
  exact ⟨pinDirection_dir_congr (by simp) d true, pinAnalog_ansel_congr (by simp) d false⟩

/-- `bind_rx` leaves DIR and ANSEL as PINANA and PINDIR would, and keeps both where there is no pin. -/
theorem exists_pins_bindRx {s b : State} {rc : PinId} (hb : b.cfg = s.cfg ∧ b.dir = s.dir ∧ b.ansel = s.ansel)
    (hrc : pinOk s.cfg rc = true) :
    ∃ u, (rc = nullPin → u = s)
      ∧ (rc ≠ nullPin → ∃ u₁ u₂, exec (.pinana rc false) s = .next u₁ ∧ exec (.pindir rc false) u₁ = .next u₂
        ∧ u = u₂)
      ∧ u.cfg = s.cfg ∧ (bindRx rc b).dir = u.dir ∧ (bindRx rc b).ansel = u.ansel := by
  obtain ⟨hc, hd, ha⟩ := hb
  by_cases hnull : rc = nullPin
  · subst hnull
    exact ⟨s, fun _ => rfl, fun h => absurd rfl h, rfl, by simp [bindRx_null, hd], by simp [bindRx_null, ha]⟩
  · obtain ⟨d, hp⟩ := namesPin_of_pinOk hrc hnull
    obtain ⟨u₁, hana, hdir⟩ := exec_pinana_pindir hp false
    obtain ⟨hdirB, hanselB⟩ := bindRx_pins (s := b) (by simpa [namesPin, hc] using hp)
    obtain ⟨hdirU, hanselU⟩ := digital_pins d false s
    refine ⟨digital d false s, fun h => absurd h hnull, fun _ => ⟨u₁, _, hana, hdir, rfl⟩, by simp [digital], ?_, ?_⟩
    · rw [hdirB, hdirU, pinDirection_dir_congr hd]
    · rw [hanselB, hanselU, pinAnalog_ansel_congr ha]

/-- `bind_tx` of a pin that can transmit leaves DIR and ANSEL as PINANA and PINDIR would. -/
theorem exists_pins_bindTx {u b : State} {tx : PinId} (hb : b.cfg = u.cfg ∧ b.dir = u.dir ∧ b.ansel = u.ansel)
    (h : routedPin u.cfg tx) :
    ∃ v₁ v₂, exec (.pinana tx false) u = .next v₁ ∧ exec (.pindir tx true) v₁ = .next v₂
      ∧ (bindTx tx b).dir = v₂.dir ∧ (bindTx tx b).ansel = v₂.ansel := by
  obtain ⟨hc, hd, ha⟩ := hb
  obtain ⟨d, hp, hr⟩ := namesPin_of_routedPin h
  obtain ⟨v₁, hana, hdir⟩ := exec_pinana_pindir hp true
  obtain ⟨hdirB, hanselB⟩ := bindTx_pins (s := b) (by simpa [namesPin, hc] using hp) hr
  obtain ⟨hdirV, hanselV⟩ := digital_pins d true u
  refine ⟨v₁, _, hana, hdir, ?_, ?_⟩
  · rw [hdirB, hdirV, pinDirection_dir_congr hd]
  · rw [hanselB, hanselV, pinAnalog_ansel_congr ha]

/-! ## The levels of the two bindings (R175 to R177) -/

/-- The levels of a receive pin's sub-steps, from those they find: analog-select, direction, input-select, enable. -/
def rxLevels (o : Outputs) (ansel dir : List Byte) (sel : Byte) : List Outputs :=
  [ o,
    { o with anselO := ansel },
    { o with anselO := ansel, dirO := dir },
    { o with anselO := ansel, dirO := dir, rxselO := sel },
    { o with anselO := ansel, dirO := dir, rxselO := sel, rxEnO := true } ]

/-- The levels of a transmit pin's sub-steps, from those they find: analog-select, direction, routing, enable. -/
def txLevels (o : Outputs) (ansel dir : List Byte) (routes : List (Option Byte)) : List Outputs :=
  [ o,
    { o with anselO := ansel },
    { o with anselO := ansel, dirO := dir },
    { o with anselO := ansel, dirO := dir, routeO := routes },
    { o with anselO := ansel, dirO := dir, routeO := routes, txEnO := true } ]

theorem levelsInOrder_bindRxSteps {s : State} {rc : PinId} {d : PinDescriptor} (h : namesPin s rc d) :
    levelsInOrder (bindRxSteps s.cfg rc) s =
      [outputs s, outputs s]
        ++ rxLevels (outputs s) (bindRx rc s).ansel (bindRx rc s).dir (bindRx rc s).rxsel := by
  rw [bindRx_of_namesPin h, bindRxSteps, pinOperand_of_namesPin h]
  simp [rxLevels, outputs]

theorem levelsInOrder_bindTxSteps {s : State} {tx : PinId} {d : PinDescriptor} (h : namesPin s tx d)
    (hr : d.route = true) :
    levelsInOrder (bindTxSteps s.cfg tx) s =
      txLevels (outputs s) (bindTx tx s).ansel (bindTx tx s).dir (outputs (bindTx tx s)).routeO := by
  rw [bindTx_of_namesPin h hr, bindTxSteps, pinOperand_of_namesPin h]
  simp [txLevels, outputs, hr]

theorem outputs_bindRx (rc : PinId) (s : State) :
    outputs (bindRx rc s) =
      { outputs s with
        anselO := (bindRx rc s).ansel, dirO := (bindRx rc s).dir, rxselO := (bindRx rc s).rxsel
        rxEnO := (bindRx rc s).uctl.rxEn } := by
  simp [outputs, bindRx_tier]

theorem uartEn_bindRxSteps (c : Config) (rc : PinId) :
    ∀ f ∈ bindRxSteps c rc, ∀ s, (f s).uctl.uartEn = s.uctl.uartEn := by
  unfold bindRxSteps
  split <;> simp

theorem uartEn_bindTxSteps (c : Config) (tx : PinId) :
    ∀ f ∈ bindTxSteps c tx, ∀ s, (f s).uctl.uartEn = s.uctl.uartEn := by
  unfold bindTxSteps
  split
  · split <;> simp
  · simp

/-! ## The levels of a successful SERINIT (R177) -/

/-- The sub-steps of a successful SERINIT but the last (R171). -/
def stepsBeforeEnable (c : Config) (i d : Nat) (rc tx : PinId) : List (State → State) :=
  [programTier i, programDivisor d] ++ bindRxSteps c rc ++ bindTxSteps c tx ++ [clearSerErr]

theorem serinitSteps_eq (c : Config) (i d : Nat) (rc tx : PinId) :
    serinitSteps c i d rc tx = stepsBeforeEnable c i d rc tx ++ [enableUart] := by
  simp [serinitSteps, stepsBeforeEnable]

theorem stepsBeforeEnable_ne_nil (c : Config) (i d : Nat) (rc tx : PinId) : stepsBeforeEnable c i d rc tx ≠ [] := by
  simp [stepsBeforeEnable]

theorem uartEn_stepsBeforeEnable {c : Config} {i d : Nat} {rc tx : PinId} :
    ∀ f ∈ stepsBeforeEnable c i d rc tx, ∀ s, (f s).uctl.uartEn = s.uctl.uartEn := by
  intro f hf
  simp only [stepsBeforeEnable, List.mem_append, List.mem_cons, List.not_mem_nil, or_false] at hf
  obtain (((rfl | rfl) | hf) | hf) | rfl := hf
  · simp
  · simp
  · exact uartEn_bindRxSteps c rc f hf
  · exact uartEn_bindTxSteps c tx f hf
  · simp

theorem serinitLevels_eq (i d : Nat) (rc tx : PinId) (s : State) :
    serinitLevels i d rc tx s =
      levelsInOrder (stepsBeforeEnable s.cfg i d rc tx) s ++ [outputs (serialSetup i d rc tx s)] := by
  simp [serinitLevels, serialSetup, serinitSteps_eq]

theorem dropLast_serinitLevels (i d : Nat) (rc tx : PinId) (s : State) :
    (serinitLevels i d rc tx s).dropLast = levelsInOrder (stepsBeforeEnable s.cfg i d rc tx) s := by
  rw [serinitLevels_eq, List.dropLast_concat]

theorem getLast?_serinitLevels (i d : Nat) (rc tx : PinId) (s : State) :
    (serinitLevels i d rc tx s).getLast? = some (outputs (serialSetup i d rc tx s)) := by
  rw [serinitLevels_eq, List.getLast?_concat]

/-- Up to the last sub-step, `uart_en_o` keeps its value. -/
theorem uartEnO_dropLast_serinitLevels (i d : Nat) (rc tx : PinId) (s : State) :
    ∀ x ∈ (serinitLevels i d rc tx s).dropLast, x.uartEnO = s.uctl.uartEn := by
  rw [dropLast_serinitLevels]
  exact uartEnO_levelsInOrder uartEn_stepsBeforeEnable s

/-- Before the last sub-step every level but `uart_en_o` is the one SERINIT leaves. -/
theorem getLast?_dropLast_serinitLevels (i d : Nat) (rc tx : PinId) (s : State) :
    (serinitLevels i d rc tx s).dropLast.getLast? =
      some { outputs (serialSetup i d rc tx s) with uartEnO := s.uctl.uartEn } := by
  have hlast := getLast?_levelsInOrder (stepsBeforeEnable_ne_nil s.cfg i d rc tx) s
  have hen := uartEnO_levelsInOrder uartEn_stepsBeforeEnable s _ (List.mem_of_getLast? hlast)
  have hsetup : serialSetup i d rc tx s = enableUart (inOrder (stepsBeforeEnable s.cfg i d rc tx) s) := by
    simp [serialSetup, serinitSteps_eq]
  rw [dropLast_serinitLevels, hlast, hsetup, outputs_enableUart, ← hen]

/-- The levels of a binding pass between those of the generator and the last two. -/
theorem serinitLevels_eq_parts (i d : Nat) (rc tx : PinId) (s : State) :
    serinitLevels i d rc tx s =
      levelsInOrder [programTier i, programDivisor d] s
        ++ levelsInOrder (bindRxSteps s.cfg rc) (programBrg i d s)
        ++ levelsInOrder (bindTxSteps s.cfg tx) (bindRx rc (programBrg i d s))
        ++ levelsInOrder [clearSerErr, enableUart] (bindTx tx (bindRx rc (programBrg i d s))) := by
  have hbrg : inOrder [programTier i, programDivisor d] s = programBrg i d s := rfl
  have hrx : inOrder (bindRxSteps s.cfg rc) (programBrg i d s) = bindRx rc (programBrg i d s) := rfl
  have htx : inOrder (bindTxSteps s.cfg tx) (bindRx rc (programBrg i d s))
      = bindTx tx (bindRx rc (programBrg i d s)) := by simp [bindTx]
  rw [serinitLevels, serinitSteps]
  simp only [levelsInOrder_append, inOrder_append, hbrg, hrx, htx]

/-- The levels of the receive pin (R175). -/
theorem rxLevels_infix_serinitLevels {s : State} {rc : PinId} (hrc : pinOk s.cfg rc = true) (hp : rc ≠ nullPin)
    (i d : Nat) (tx : PinId) :
    let b := programBrg i d s
    rxLevels (outputs b) (bindRx rc b).ansel (bindRx rc b).dir (bindRx rc b).rxsel <:+: serinitLevels i d rc tx s := by
  intro b
  obtain ⟨dr, hp⟩ := namesPin_of_pinOk hrc hp
  have hlevels : levelsInOrder (bindRxSteps s.cfg rc) b = _ := levelsInOrder_bindRxSteps (s := b) hp
  rw [serinitLevels_eq_parts, hlevels]
  exact ⟨levelsInOrder [programTier i, programDivisor d] s ++ [outputs b, outputs b],
    levelsInOrder (bindTxSteps s.cfg tx) (bindRx rc b)
      ++ levelsInOrder [clearSerErr, enableUart] (bindTx tx (bindRx rc b)), by simp only [List.append_assoc, b]⟩

/-- The levels of a transmit pin (R176). -/
theorem txLevels_infix_serinitLevels {s : State} {tx : PinId} (htx : routedPin s.cfg tx) (i d : Nat) (rc : PinId) :
    let r := bindRx rc (programBrg i d s)
    txLevels (outputs r) (bindTx tx r).ansel (bindTx tx r).dir (outputs (bindTx tx r)).routeO
      <:+: serinitLevels i d rc tx s := by
  intro r
  have hcfg : r.cfg = s.cfg := by simp [r]
  rw [← hcfg] at htx
  obtain ⟨dt, hp, hr⟩ := namesPin_of_routedPin htx
  have hlevels := levelsInOrder_bindTxSteps hp hr
  rw [serinitLevels_eq_parts, ← hcfg, hlevels]
  exact List.infix_append ..

/-- What the levels a SERINIT leaves come from: the generator's registers, `bind_rx`, then `bind_tx`. -/
theorem serialSetup_levels (i d : Nat) (rc tx : PinId) (s : State) :
    let t := serialSetup i d rc tx s
    let r := bindRx rc (programBrg i d s)
    t.dir = (bindTx tx r).dir ∧ t.ansel = (bindTx tx r).ansel ∧ (outputs t).routeO = (outputs (bindTx tx r)).routeO
      ∧ t.rxsel = r.rxsel ∧ t.uctl.rxEn = r.uctl.rxEn ∧ t.uctl.tier = BitVec.ofNat 2 i
      ∧ t.brgh ++ t.brgl = BitVec.ofNat 8 (d / 256) ++ BitVec.ofNat 8 d := by
  simp [serialSetup_eq, bindTx_tier, bindRx_tier, outputs]

end Sys2Proof.Machine
end

section
open Sys2Proof Sys2Proof.Machine

/-- Settles O23: the pins are those `bind_rx` and `bind_tx` leave, and the levels of each binding stand in order among
those SERINIT passes, `enableUart` being the last sub-step. -/
theorem serinitConfiguresItsPins : Obligations.SerinitConfiguresItsPins := by
  intro s rc tx i d hrc htx hsel
  let r := bindRx rc (programBrg i d s)
  have hr : r.cfg = s.cfg := by simp [r]
  obtain ⟨u, hnull, hpin, hcfg, hdirU, hanselU⟩ :=
    exists_pins_bindRx (s := s) (b := programBrg i d s) ⟨rfl, rfl, rfl⟩ hrc
  obtain ⟨hdir, hansel, hroute, hrxsel, hrxEn, htier, hbrg⟩ := serialSetup_levels i d rc tx s
  refine ⟨u, _, exec_serinit_of_selected hrc htx hsel, hnull, hpin, ?_⟩
  simp only [complete_keeps]
  refine ⟨fun h => ?unrouted, fun h => ?routed, rfl, getLast?_serinitLevels i d rc tx s,
    uartEnO_dropLast_serinitLevels i d rc tx s, getLast?_dropLast_serinitLevels i d rc tx s, fun h => ?rx_levels,
    fun h => ?tx_levels⟩
  case unrouted =>
    rw [hdir, hansel, bindTx_of_not_routedPin (s := r) (by rwa [hr])]
    exact ⟨hdirU, hanselU⟩
  case routed =>
    rw [hdir, hansel]
    exact exists_pins_bindTx (b := r) ⟨by rw [hr, hcfg], hdirU, hanselU⟩ (by rwa [hcfg])
  case rx_levels =>
    obtain ⟨pre, post, hw⟩ := rxLevels_infix_serinitLevels hrc h i d tx
    refine ⟨pre, post, hw.symm.trans ?_⟩
    rw [hdirU, hanselU, outputs_programBrg, ← hrxsel, ← htier, ← hbrg]
    rfl
  case tx_levels =>
    obtain ⟨pre, post, hw⟩ := txLevels_infix_serinitLevels h i d rc
    refine ⟨pre, post, hw.symm.trans ?_⟩
    rw [outputs_bindRx, hdirU, hanselU, outputs_programBrg, ← hdir, ← hansel, ← hroute, ← hrxsel, ← hrxEn, ← htier,
      ← hbrg]
    rfl

end

section
/-! PROOF. The micro-steps of SERPROC, each said once, and what they make of the two queues (spec/43_serial_process.md
R192 to R204). -/

namespace Sys2Proof.Machine

/-! ## One micro-step (R192 to R196) -/

/-- The micro-step the block takes at a sequencer state of SERPROC (R192 to R196). -/
def serprocMicro : Seq → Option (State → State)
  | .pEnter => some microEnter
  | .pRxchk => some microRxchk
  | .pRxloop => some microRxloop
  | .pTx => some microTx
  | .pExit => some microExit
  | .idle | .iTick | .iRet => none

theorem step_serprocMicro {s : State} {f : State → State} (ho : s.cfg.ok = true) (hb : blockMoves s = true)
    (hf : serprocMicro s.seq = some f) : step s = .next (f (beginStep s)) := by
  have hs : (beginStep s).seq = s.seq := rfl
  rw [step_block ho hb, blockStep, hs]
  cases h : s.seq <;> simp_all [serprocMicro]

theorem microExit_of_int {s : State} (h : s.procOwner = .int) :
    microExit s = { s with ictl := { s.ictl with gie := s.savedGie }, seq := .iRet } := by
  simp [microExit, setGie, h]

theorem microExit_of_bg {s : State} (h : s.procOwner = .bg) :
    microExit s = { s with ictl := { s.ictl with gie := s.savedGie }, seq := .idle, res := some 0 } := by
  simp [microExit, setGie, complete, h]

theorem microRxchk_of_unbound {s : State} (h : s.rcbound = nullPin) : microRxchk s = { s with seq := .pTx } := by
  simp [microRxchk, h]

theorem microRxchk_of_overrun {s : State} (h : s.rcbound ≠ nullPin) (ho : s.uart.oerr = true) :
    microRxchk s = flagSerErr (envRxReset { s with uctl := { s.uctl with rxEn := true }, seq := .pTx }) := by
  simp [microRxchk, h, oerr, ho]

theorem microRxchk_of_bound {s : State} (h : s.rcbound ≠ nullPin) (ho : s.uart.oerr = false) :
    microRxchk s = { s with seq := .pRxloop } := by
  simp [microRxchk, h, oerr, ho]

theorem microRxloop_of_nil {s : State} (h : s.uart.rxf = []) : microRxloop s = { s with seq := .pTx } := by
  simp [microRxloop, h]

theorem microRxloop_of_cons {s : State} {e : RxEntry} {es : List RxEntry} (h : s.uart.rxf = e :: es) :
    microRxloop s = takeByte e (envPop s) := by
  simp [microRxloop, h]

/-! ## The receive queue (R194, R198, R200) -/

theorem caps_of_ok {c : Config} (h : c.ok = true) : c.rxCap ≤ 255 ∧ c.txCap ≤ 255 := by
  simp only [Config.ok, decide_eq_true_eq] at h
  omega

theorem takeByte_of_lost {e : RxEntry} {s : State} (h : e.fe = true ∨ s.cfg.rxCap ≤ s.rxqlen.toNat) :
    takeByte e s = flagSerErr s := by
  unfold takeByte
  split
  · rfl
  · exact if_neg (by simp_all)

theorem takeByte_of_stored {e : RxEntry} {s : State} (hf : e.fe = false) (hr : s.rxqlen.toNat < s.cfg.rxCap) :
    takeByte e s = setRxqbuf s.rxqlen.toNat e.byte { s with rxqlen := s.rxqlen + 1 } := by
  simp [takeByte, hf, hr]

theorem lost_or_stored (e : RxEntry) (s : State) :
    (e.fe = true ∨ s.cfg.rxCap ≤ s.rxqlen.toNat) ∨ e.fe = false ∧ s.rxqlen.toNat < s.cfg.rxCap := by
  cases e.fe <;> simp [le_or_gt]

/-- A queue register below its capacity grows by one without wrapping (R195). -/
theorem toNat_add_one_of_lt {n : Byte} {c : Nat} (h : n.toNat < c) (hc : c ≤ 255) : (n + 1).toNat = n.toNat + 1 := by
  bv_omega

/-- What the host finds in the receive queue depends on these alone. -/
theorem received_congr {s t : State} (hk : t.rxqlen = s.rxqlen ∧ t.mem = s.mem ∧ t.epoch = s.epoch) :
    received t = received s := by
  obtain ⟨hl, hm, he⟩ := hk
  have hb : rxqbuf t = rxqbuf s := funext fun k => bufferRead_congr hm he _
  simp [received, hl, hb]

theorem received_setRxqbuf {s : State} {c : Nat} (h : s.rxqlen.toNat < c) (hc : c ≤ 255) (b : Byte) :
    received (setRxqbuf s.rxqlen.toNat b { s with rxqlen := s.rxqlen + 1 }) = received s ++ [b] := by
  have hkeep : ∀ k ∈ List.range s.rxqlen.toNat,
      rxqbuf (setRxqbuf s.rxqlen.toNat b { s with rxqlen := s.rxqlen + 1 }) k = rxqbuf s k := fun k hk =>
    rxqbuf_setRxqbuf_other b _ (Nat.ne_of_lt (List.mem_range.mp hk))
  simp only [received, setRxqbuf_keeps, toNat_add_one_of_lt h hc, List.range_succ, List.map_append,
    List.map_congr_left hkeep, List.map_cons, List.map_nil, rxqbuf_setRxqbuf_same]

theorem txqbuf_takeByte {s : State} (hc : s.cfg.rxCap ≤ 255) (e : RxEntry) (k : Nat) :
    txqbuf (takeByte e s) k = txqbuf s k := by
  obtain hl | ⟨hf, hr⟩ := lost_or_stored e s
  · rw [takeByte_of_lost hl]; rfl
  · rw [takeByte_of_stored hf hr]
    exact txqbuf_setRxqbuf _ _ ((hr.trans_le hc).trans (by decide))

theorem txqbuf_takeAll {s : State} (hc : s.cfg.rxCap ≤ 255) (es : List RxEntry) (k : Nat) :
    txqbuf (takeAll es s) k = txqbuf s k := by
  induction es generalizing s with
  | nil => rfl
  | cons e es ih => rw [takeAll, ih (by simpa using hc), txqbuf_takeByte hc]

/-- With the queue full every byte is lost (R200). -/
theorem takeAll_of_full {es : List RxEntry} {s : State} (hne : es ≠ []) (h : s.cfg.rxCap ≤ s.rxqlen.toNat) :
    takeAll es s = flagSerErr s := by
  induction es generalizing s with
  | nil => exact absurd rfl hne
  | cons e es ih =>
    rw [takeAll, takeByte_of_lost (.inr h)]
    by_cases hes : es = []
    · rw [hes, takeAll]
    · rw [ih (s := flagSerErr s) hes h]; rfl

/-- With room for all, the clean bytes are appended in order, and the error flag tells whether one was not (R194). -/
theorem takeAll_of_room {es : List RxEntry} {s : State} (hc : s.cfg.rxCap ≤ 255)
    (h : s.rxqlen.toNat + es.length ≤ s.cfg.rxCap) :
    received (takeAll es s) = received s ++ (es.filter (fun e => !e.fe)).map (·.byte)
      ∧ (takeAll es s).serr = (s.serr || es.any (·.fe)) := by
  induction es generalizing s with
  | nil => simp [takeAll]
  | cons e es ih =>
    rw [List.length_cons] at h
    have hlt : s.rxqlen.toNat < s.cfg.rxCap := by omega
    cases hf : e.fe with
    | true =>
      obtain ⟨hrec, herr⟩ := ih (s := flagSerErr s) hc (by simp only [flagSerErr_keeps]; omega)
      rw [takeAll, takeByte_of_lost (.inl hf), hrec, herr]
      simp [hf, received_congr (s := s) (t := flagSerErr s)]
    | false =>
      have hroom : (s.rxqlen + 1).toNat + es.length ≤ s.cfg.rxCap := by rw [toNat_add_one_of_lt hlt hc]; omega
      obtain ⟨hrec, herr⟩ := ih (s := setRxqbuf s.rxqlen.toNat e.byte { s with rxqlen := s.rxqlen + 1 }) hc hroom
      rw [takeAll, takeByte_of_stored hf hlt, hrec, herr, received_setRxqbuf hlt hc]
      simp [hf]

/-! ## The send queue (R195, R199, R203) -/

theorem txSends_iff {s : State} :
    txSends s = true ↔ s.txbound ≠ nullPin ∧ s.txqcur.toNat < s.txqlen.toNat ∧ txReady s = true := by
  simp [txSends, and_assoc]

theorem txSends_eq_false_iff {s : State} :
    txSends s = false ↔ s.txbound = nullPin ∨ s.txqlen.toNat ≤ s.txqcur.toNat ∨ txReady s = false := by
  rw [Bool.eq_false_iff, Ne, txSends_iff, not_and_or, not_and_or, not_not, not_lt, Bool.not_eq_true]

theorem transmit_of_not_sends {s : State} (h : txSends s = false) : transmit s = s := by simp [transmit, h]

theorem transmit_of_sends {s : State} (h : txSends s = true) (hc : s.txqcur.toNat < s.cfg.txCap) :
    transmit s = envTxWrite (txqbuf s s.txqcur.toNat) { s with txqcur := s.txqcur + 1 } := by
  simp [transmit, txByte, h, hc]

theorem transmit_of_sends_beyond {s : State} (h : txSends s = true) (hc : s.cfg.txCap ≤ s.txqcur.toNat) :
    transmit s = envTxWrite (nextDraw s) { drawn s with txqcur := s.txqcur + 1 } := by
  simp [transmit, txByte, h, Nat.not_lt.mpr hc]

/-- The byte handed over is the last the transmitter holds, in either environment (R268, R269). -/
theorem getLast?_envTxWrite (b : Byte) (s : State) : (envTxWrite b s).uart.txh.getLast? = some b := by
  cases h : s.cfg.uartEnv <;> simp [envTxWrite, h]

theorem txqcur_transmit (s : State) :
    (transmit s).txqcur = s.txqcur ∨ txSends s = true ∧ (transmit s).txqcur = s.txqcur + 1 := by
  cases h : txSends s with
  | false => exact .inl (by rw [transmit_of_not_sends h])
  | true =>
    refine .inr ⟨rfl, ?_⟩
    by_cases hc : s.txqcur.toNat < s.cfg.txCap
    · rw [transmit_of_sends h hc]; rfl
    · rw [transmit_of_sends_beyond h (Nat.not_lt.mp hc)]; rfl

theorem rxf_transmit (s : State) : (transmit s).uart.rxf = s.uart.rxf := by
  cases h : txSends s with
  | false => rw [transmit_of_not_sends h]
  | true =>
    by_cases hc : s.txqcur.toNat < s.cfg.txCap
    · rw [transmit_of_sends h hc]; rfl
    · rw [transmit_of_sends_beyond h (Nat.not_lt.mp hc)]; simp [envTxWrite]

/-- What is left to send depends on these alone. -/
theorem unsent_congr {s t : State} (hb : txqbuf t = txqbuf s) (hl : t.txqlen = s.txqlen) (hc : t.txqcur = s.txqcur) :
    unsent t = unsent s := by
  simp [unsent, hb, hl, hc]

/-! ## The receive phase as a function (R197) -/

/-- The peripheral holds these received bytes and no other. -/
def State.holding (s : State) (es : List RxEntry) : State := { s with uart := { s.uart with rxf := es } }

@[simp] theorem holding_keeps (s : State) (es : List RxEntry) :
    (s.holding es).cfg = s.cfg ∧ (s.holding es).mem = s.mem ∧ (s.holding es).rxqlen = s.rxqlen
    ∧ (s.holding es).serr = s.serr ∧ (s.holding es).epoch = s.epoch := by
  simp [State.holding]

@[simp] theorem holding_uart (s : State) (es : List RxEntry) : (s.holding es).uart = { s.uart with rxf := es } := rfl

theorem receivePhase_of_unbound {s : State} (h : s.rcbound = nullPin) : receivePhase s = s := by
  simp [receivePhase, h]

theorem receivePhase_of_overrun {s : State} (h : s.rcbound ≠ nullPin) (ho : s.uart.oerr = true) :
    receivePhase s = flagSerErr (envRxReset { s with uctl := { s.uctl with rxEn := true } }) := by
  simp [receivePhase, h, oerr, ho]

theorem receivePhase_of_bound {s : State} (h : s.rcbound ≠ nullPin) (ho : s.uart.oerr = false) :
    receivePhase s = takeAll s.uart.rxf (s.holding []) := by
  simp [receivePhase, h, oerr, ho, State.holding]

end Sys2Proof.Machine
end

section
open Sys2Proof Sys2Proof.Machine

/-- Settles O28: the acceptance, and the first and last of the micro-steps (`step_serprocMicro`). -/
theorem serprocSavesAndRestoresGie : Obligations.SerprocSavesAndRestoresGie := by
  refine ⟨fun s => rfl, fun s ho hb hs => ?enter, fun s ho hb hs => ?exit⟩
  case enter => exact step_serprocMicro (f := microEnter) ho hb (by rw [hs]; rfl)
  case exit =>
    have hstep := step_serprocMicro (f := microExit) ho hb (by rw [hs]; rfl)
    exact ⟨fun hp => by rw [hstep, microExit_of_int (s := beginStep s) hp]; rfl,
      fun hp => by rw [hstep, microExit_of_bg (s := beginStep s) hp]; rfl⟩

/-- Settles O29: the three branches of S_P_RXCHK. -/
theorem overrunResetsTheReceiver : Obligations.OverrunResetsTheReceiver := by
  intro s ho hb hs
  have hstep := step_serprocMicro (f := microRxchk) ho hb (by rw [hs]; rfl)
  exact ⟨fun h => by rw [hstep, microRxchk_of_unbound (s := beginStep s) h],
    fun h hv => by rw [hstep, microRxchk_of_overrun (s := beginStep s) h hv]; rfl,
    fun h hv => by rw [hstep, microRxchk_of_bound (s := beginStep s) h hv]⟩

/-- Settles O30: with a byte held, S_P_RXLOOP pops it and it is lost or stored (`takeByte`). -/
theorem receiveLoopTakesOneByte : Obligations.ReceiveLoopTakesOneByte := by
  intro s ho hb hs
  have hstep := step_serprocMicro (f := microRxloop) ho hb (by rw [hs]; rfl)
  refine ⟨fun h => by rw [hstep, microRxloop_of_nil (s := beginStep s) h], fun b fe rest h => ?_⟩
  rw [microRxloop_of_cons (s := beginStep s) h] at hstep
  have hpop : envPop (beginStep s) = { beginStep s with uart := { s.uart with rxf := rest }, strobe := some .pop } := by
    simp [envPop, beginStep, h]
  refine ⟨fun hl => ?lost, fun hf hr => ⟨_, hstep, ?frame, ?stored, fun k hk => ?other, fun k _ => ?send⟩⟩
  case lost => rw [hstep, takeByte_of_lost (s := envPop (beginStep s)) hl, hpop]; rfl
  all_goals rw [takeByte_of_stored (s := envPop (beginStep s)) hf hr]
  case frame => rw [hpop]; rfl
  case stored => exact rxqbuf_setRxqbuf_same _ _ _
  case other => exact rxqbuf_setRxqbuf_other _ _ hk
  case send => exact txqbuf_setRxqbuf _ _ ((hr.trans_le (caps_of_ok ho).1).trans (by decide))

/-- Settles O31: S_P_TX moves SEQ on, and `transmit` hands over nothing, the byte at the cursor, or a draw. -/
theorem transmitSendsAtMostOneByte : Obligations.TransmitSendsAtMostOneByte := by
  intro s ho hb hs
  have hstep : step s = .next (microTx (beginStep s)) := step_serprocMicro ho hb (by rw [hs]; rfl)
  refine ⟨fun h => ?nothing, fun hx hlt hr => ?sends⟩
  case nothing =>
    have hn : txSends (beginStep s) = false := txSends_eq_false_iff.mpr h
    rw [hstep, microTx, transmit_of_not_sends hn]
  case sends =>
    have hy : txSends (beginStep s) = true := txSends_iff.mpr ⟨hx, hlt, hr⟩
    refine ⟨fun hc => ⟨_, hstep, ?_⟩, fun hc => ⟨_, hstep, ?_⟩⟩
    · rw [microTx, transmit_of_sends (s := beginStep s) hy hc]
      exact ⟨rfl, rfl, getLast?_envTxWrite _ _⟩
    · rw [microTx, transmit_of_sends_beyond (s := beginStep s) hy hc]
      exact ⟨rfl, by simp [envTxWrite], getLast?_envTxWrite _ _⟩

end

section
/-! PROOF. A SERPROC with no environment step inside it: its micro-steps run to the function of R197. -/

namespace Sys2Proof.Machine

/-! ## What the two phases of SERPROC leave alone -/

/-- The fields that neither phase of SERPROC reads or writes: the control state, the host and the schedule (R205). -/
structure Control where
  ctx       : Ctx
  seq       : Seq
  procOwner : Ctx
  savedGie  : Bool
  ictl      : Ictl
  cmds      : List Word
  moves     : List Move

/-- The same control with the sequencer at q and the schedule ms left. -/
def Control.seqTo (c : Control) (q : Seq) (ms : List Move) : Control := { c with seq := q, moves := ms }

/-- A state under another control, with the one-step wires down. -/
def State.under (s : State) (c : Control) : State :=
  { s with
    ctx := c.ctx, seq := c.seq, procOwner := c.procOwner, savedGie := c.savedGie, ictl := c.ictl, cmds := c.cmds
    moves := c.moves, res := none, strobe := none }

/-- The one-step wires fall (R22, R43). -/
def wiresDown (s : State) : State := { s with res := none, strobe := none }

/-- No step reads the wires of the step before (notes/assumptions/8.md). -/
theorem run_wiresDown (n : Nat) (s : State) :
    Host.Core.run Sys2Proof.core (n + 1) (wiresDown s) = Host.Core.run Sys2Proof.core (n + 1) s := rfl

/-- Taking a byte commutes with an update of what it neither reads nor writes. -/
theorem takeByte_comm {f : State → State} {s : State} (hc : (f s).cfg = s.cfg) (hl : (f s).rxqlen = s.rxqlen)
    (hflag : flagSerErr (f s) = f (flagSerErr s))
    (hstore : ∀ k b n, setRxqbuf k b { f s with rxqlen := n } = f (setRxqbuf k b { s with rxqlen := n }))
    (e : RxEntry) : takeByte e (f s) = f (takeByte e s) := by
  obtain h | ⟨hf, hr⟩ := lost_or_stored e s
  · rw [takeByte_of_lost h, takeByte_of_lost (by rwa [hc, hl]), hflag]
  · rw [takeByte_of_stored hf hr, takeByte_of_stored hf (by rwa [hc, hl]), hl, hstore]

theorem takeByte_under (e : RxEntry) (s : State) (c : Control) :
    takeByte e (s.under c) = (takeByte e s).under c :=
  takeByte_comm (f := (·.under c)) rfl rfl rfl (fun _ _ _ => rfl) e

theorem takeByte_wiresDown (e : RxEntry) (s : State) : takeByte e (wiresDown s) = wiresDown (takeByte e s) :=
  takeByte_comm (f := wiresDown) rfl rfl rfl (fun _ _ _ => rfl) e

theorem takeByte_holding (e : RxEntry) (s : State) (es : List RxEntry) :
    takeByte e (s.holding es) = (takeByte e s).holding es :=
  takeByte_comm (f := (·.holding es)) rfl rfl rfl (fun _ _ _ => rfl) e

theorem drawn_under (s : State) (c : Control) : drawn (s.under c) = (drawn s).under c := by
  unfold drawn
  simp only [State.under]
  cases s.script <;> rfl

theorem transmit_under (s : State) (c : Control) : wiresDown (transmit (s.under c)) = (transmit s).under c := by
  cases h : txSends s with
  | false => rw [transmit_of_not_sends h, transmit_of_not_sends (s := s.under c) h]; rfl
  | true =>
    by_cases hc : s.txqcur.toNat < s.cfg.txCap
    · rw [transmit_of_sends h hc, transmit_of_sends (s := s.under c) h hc]; rfl
    · have hc := Nat.not_lt.mp hc
      rw [transmit_of_sends_beyond h hc, transmit_of_sends_beyond (s := s.under c) h hc, drawn_under]; rfl

/-! ## From one micro-step to the next -/

theorem wiresDown_microRxchk_of_bound {x : State} (h : x.rcbound ≠ nullPin) (ho : x.uart.oerr = false) (c : Control) :
    wiresDown (microRxchk (x.under c)) = x.under (c.seqTo .pRxloop c.moves) := by
  rw [microRxchk_of_bound (s := x.under c) h ho]; rfl

/-- Where the loop does not run, S_P_RXCHK is the whole receive phase (R193). -/
theorem wiresDown_microRxchk_of_no_loop {x : State} (h : x.rcbound = nullPin ∨ x.uart.oerr = true) (c : Control) :
    wiresDown (microRxchk (x.under c)) = (receivePhase x).under (c.seqTo .pTx c.moves) := by
  by_cases hr : x.rcbound = nullPin
  · rw [microRxchk_of_unbound (s := x.under c) hr, receivePhase_of_unbound hr]; rfl
  · have ho := h.resolve_left hr
    rw [microRxchk_of_overrun (s := x.under c) hr ho, receivePhase_of_overrun hr ho]; rfl

theorem wiresDown_microRxloop_of_nil {x : State} (h : x.uart.rxf = []) (c : Control) :
    wiresDown (microRxloop (x.under c)) = x.under (c.seqTo .pTx c.moves) := by
  rw [microRxloop_of_nil (s := x.under c) h]; rfl

theorem wiresDown_microRxloop_of_cons {x : State} {e : RxEntry} {es : List RxEntry} (h : x.uart.rxf = e :: es)
    (c : Control) : wiresDown (microRxloop (x.under c)) = (takeByte e (x.holding es)).under c := by
  have hpop : wiresDown (envPop (x.under c)) = (x.holding es).under c := by
    simp [envPop, wiresDown, State.under, State.holding, h]
  rw [microRxloop_of_cons (s := x.under c) h, ← takeByte_wiresDown, hpop, takeByte_under]

theorem wiresDown_microTx (x : State) (c : Control) :
    wiresDown (microTx (x.under c)) = (transmit x).under (c.seqTo .pExit c.moves) := by
  have h := congrArg (fun s : State => { s with seq := .pExit }) (transmit_under x c)
  simpa [microTx, wiresDown, State.under, Control.seqTo] using h

/-! ## The run -/

/-- One micro-step of a run that goes on, from x under c to y under c'. -/
theorem run_serprocMicro {x y : State} {c c' : Control} {f : State → State} {ms : List Move} (ho : x.cfg.ok = true)
    (hf : serprocMicro c.seq = some f) (hm : c.moves = .block :: ms)
    (hy : wiresDown (f (x.under (c.seqTo c.seq ms))) = y.under c') (n : Nat) :
    Host.Core.run Sys2Proof.core (n + 2) (x.under c) = Host.Core.run Sys2Proof.core (n + 1) (y.under c') := by
  have hb : blockMoves (x.under c) = true := blockMoves_iff.mpr (.inr ⟨ms, hm⟩)
  have hx : beginStep (x.under c) = x.under (c.seqTo c.seq ms) := by
    simp [beginStep, State.under, Control.seqTo, hm]
  rw [run_succ (step_serprocMicro (s := x.under c) ho hb hf), hx, ← hy, run_wiresDown]

/-- The receive loop takes every byte held, one an iteration, and one iteration finds none (R194, R197). -/
theorem run_receiveLoop {es : List RxEntry} {x : State} {c : Control} {ms : List Move} (ho : x.cfg.ok = true)
    (hs : c.seq = .pRxloop) (hm : c.moves = List.replicate (es.length + 1) .block ++ ms) (hx : x.uart.rxf = es)
    (n : Nat) :
    Host.Core.run Sys2Proof.core (n + 1 + (es.length + 1)) (x.under c)
      = Host.Core.run Sys2Proof.core (n + 1) ((takeAll es (x.holding [])).under (c.seqTo .pTx ms)) := by
  have hf : serprocMicro c.seq = some microRxloop := by rw [hs]; rfl
  induction es generalizing x c with
  | nil =>
    have hnil : x.holding [] = x := by simp [State.holding, ← hx]
    rw [takeAll, hnil]
    exact run_serprocMicro ho hf hm (wiresDown_microRxloop_of_nil hx _) n
  | cons e es ih =>
    have hdata : (takeByte e (x.holding es)).holding [] = takeByte e (x.holding []) := by
      rw [← takeByte_holding]; rfl
    have hnext := ih (x := takeByte e (x.holding es)) (c := c.seqTo c.seq (List.replicate (es.length + 1) .block ++ ms))
      (by simpa using ho) hs rfl (by simp) hf
    rw [takeAll, ← hdata]
    exact (run_serprocMicro ho hf hm (wiresDown_microRxloop_of_cons hx _) _).trans hnext

theorem receiveLoops_of_bound {s : State} (h : s.rcbound ≠ nullPin) (ho : s.uart.oerr = false) :
    receiveLoops s = s.uart.rxf.length + 1 := by
  simp [receiveLoops, oerr, h, ho]

theorem receiveLoops_of_no_loop {s : State} (h : s.rcbound = nullPin ∨ s.uart.oerr = true) : receiveLoops s = 0 := by
  simpa [receiveLoops, oerr, or_iff_not_imp_left] using h

/-- S_P_RXCHK and the loop are the receive phase (R193, R194, R197). -/
theorem run_receivePhase {x : State} {c : Control} {ms : List Move} (ho : x.cfg.ok = true) (hs : c.seq = .pRxchk)
    (hm : c.moves = List.replicate (receiveLoops x + 1) .block ++ ms) (n : Nat) :
    Host.Core.run Sys2Proof.core (n + 1 + (receiveLoops x + 1)) (x.under c)
      = Host.Core.run Sys2Proof.core (n + 1) ((receivePhase x).under (c.seqTo .pTx ms)) := by
  have hf : serprocMicro c.seq = some microRxchk := by rw [hs]; rfl
  by_cases h : x.rcbound = nullPin ∨ x.uart.oerr = true
  · rw [receiveLoops_of_no_loop h] at hm ⊢
    exact run_serprocMicro ho hf hm (wiresDown_microRxchk_of_no_loop h _) n
  · obtain ⟨hr, hv⟩ := not_or.mp h
    have hv := Bool.eq_false_of_not_eq_true hv
    rw [receiveLoops_of_bound hr hv] at hm ⊢
    rw [receivePhase_of_bound hr hv]
    exact (run_serprocMicro ho hf hm (wiresDown_microRxchk_of_bound hr hv _) _).trans
      (run_receiveLoop ho rfl rfl rfl n)

/-- The control SERPROC works under after S_P_ENTER: GIE saved and cleared (R191, R192). -/
def Control.entered (c : Control) : Control := { c with savedGie := c.ictl.gie, ictl := { c.ictl with gie := false } }

/-- The micro-steps of a SERPROC up to its exit, a host's or a service's (R192 to R195, R197). -/
theorem run_serprocBody {x : State} {c : Control} {ms : List Move} (ho : x.cfg.ok = true) (hs : c.seq = .pEnter)
    (hm : c.moves = List.replicate (receiveLoops x + 3) .block ++ ms) (n : Nat) :
    Host.Core.run Sys2Proof.core (n + 1 + (receiveLoops x + 3)) (x.under c)
      = Host.Core.run Sys2Proof.core (n + 1)
          ((transmit (receivePhase x)).under (c.entered.seqTo .pExit ms)) := by
  have hf : serprocMicro c.seq = some microEnter := by rw [hs]; rfl
  have hsched : List.replicate (receiveLoops x + 2) Move.block ++ ms
      = List.replicate (receiveLoops x + 1) .block ++ .block :: ms := by
    rw [List.replicate_succ', List.append_assoc]; rfl
  calc Host.Core.run Sys2Proof.core (n + 1 + (receiveLoops x + 3)) (x.under c)
    _ = Host.Core.run Sys2Proof.core (n + 2 + (receiveLoops x + 1))
          (x.under (c.entered.seqTo .pRxchk (List.replicate (receiveLoops x + 1) .block ++ .block :: ms))) := by
        rw [← hsched, show n + 2 + (receiveLoops x + 1) = n + 1 + receiveLoops x + 1 + 1 by omega]
        exact run_serprocMicro ho hf hm rfl _
    _ = Host.Core.run Sys2Proof.core (n + 2) ((receivePhase x).under (c.entered.seqTo .pTx (.block :: ms))) :=
        run_receivePhase ho rfl rfl (n + 1)
    _ = Host.Core.run Sys2Proof.core (n + 1) ((transmit (receivePhase x)).under (c.entered.seqTo .pExit ms)) :=
        run_serprocMicro (by simpa using ho) rfl rfl (wiresDown_microTx _ _) n

/-! ## The host's SERPROC -/

theorem decode_serproc : decode 0x21000000 = .ok .serproc := by decide

/-- The acceptance of SERPROC (R190, notes/assumptions/9.md). -/
theorem step_serproc {s : State} {ws : List Word} (h : accepts s 0x21000000 ws) :
    step s = .next (s.under ⟨s.ctx, .pEnter, .bg, s.savedGie, s.ictl, ws, s.moves.tail⟩) := by
  rw [step_accepts h, decode_serproc]; rfl

/-- The whole of a host SERPROC (R197). -/
theorem run_serproc {s : State} {ws : List Word} {rest : List Move} (ho : s.cfg.ok = true) (hp : portOpen s = true)
    (hc : s.cmds = 0x21000000 :: ws) (hb : blockTurns s (serprocSteps s) rest) :
    Host.Core.run Sys2Proof.core (serprocSteps s) s = .next { serprocBig s with cmds := ws, moves := rest } := by
  have hsched : s.moves = .block :: (List.replicate (receiveLoops s + 3) .block ++ .block :: rest) := by
    rw [hb, serprocSteps, show 5 + receiveLoops s = receiveLoops s + 3 + 1 + 1 by omega, List.replicate_succ,
      List.replicate_succ']
    simp
  have hacc := step_serproc ⟨ho, blockMoves_iff.mpr (.inr ⟨_, hsched⟩), hp, hc⟩
  let c : Control := ⟨s.ctx, .pEnter, .bg, s.savedGie, s.ictl, ws, s.moves.tail⟩
  let y := (transmit (receivePhase s)).under (c.entered.seqTo .pExit (.block :: rest))
  have hexit : step y = .next (microExit (beginStep y)) :=
    step_serprocMicro (by simpa [y, State.under] using ho) rfl rfl
  calc Host.Core.run Sys2Proof.core (serprocSteps s) s
    _ = Host.Core.run Sys2Proof.core (0 + 1 + (receiveLoops s + 3)) (s.under c) := by
        rw [serprocSteps, show 5 + receiveLoops s = 0 + 1 + (receiveLoops s + 3) + 1 by omega]
        exact run_succ hacc _
    _ = Host.Core.run Sys2Proof.core 1 y := run_serprocBody ho rfl (by simp [c, hsched]) 0
    _ = .next (microExit (beginStep y)) := run_succ hexit 0
    _ = .next { serprocBig s with cmds := ws, moves := rest } := by
        rw [microExit_of_bg (s := beginStep y) rfl]
        simp [y, c, serprocBig, beginStep, State.under, Control.seqTo, Control.entered]

theorem ictl_serprocBig (s : State) : (serprocBig s).ictl = s.ictl := by simp [serprocBig]

/-- The port is open again unless an interrupt is requested (R110, R190). -/
theorem portOpen_serprocBig {s : State} (h : s.ctx = .bg) : portOpen (serprocBig s) = !irq (serprocBig s) := by
  simp [portOpen, atBoundary, serprocBig, h]

end Sys2Proof.Machine
end

section
open Sys2Proof Sys2Proof.Machine

/-- Settles O32: the acceptance, the micro-steps up to S_P_EXIT (`run_serprocBody`) and the exit (`run_serproc`). -/
theorem serprocIsItsBigStep : Obligations.SerprocIsItsBigStep := by
  intro s ws rest ho hp hc hb
  obtain ⟨-, hbg, -⟩ := portOpen_iff.mp hp
  exact ⟨run_serproc ho hp hc hb, ictl_serprocBig s, portOpen_serprocBig hbg⟩

/-- Settles O33: of the big step (`run_serproc`), the receive phase loses every byte (`takeAll_of_full`). -/
theorem overflowDropsAndFlags : Obligations.OverflowDropsAndFlags := by
  intro s ws rest ho hp hc hb hr hv hne hfull
  refine ⟨_, run_serproc ho hp hc hb, ?_⟩
  have hphase : receivePhase s = flagSerErr (s.holding []) := by
    rw [receivePhase_of_bound hr hv]
    exact takeAll_of_full hne (le_of_eq hfull.symm)
  refine ⟨by simp [serprocBig, hphase], received_congr ?_, by simp [serprocBig, hphase], ?_⟩
  · simp [serprocBig, hphase]
  · simp [serprocBig, hphase, rxf_transmit]

/-- Settles O34: of the big step (`run_serproc`), the receive phase appends the clean bytes (`takeAll_of_room`). -/
theorem cleanBytesAreAppendedInOrder : Obligations.CleanBytesAreAppendedInOrder := by
  intro s ws rest ho hp hc hb hr hv hroom
  obtain ⟨hcap, -⟩ := caps_of_ok ho
  obtain ⟨hrec, herr⟩ := takeAll_of_room (s := s.holding []) hcap hroom
  have hphase : receivePhase s = takeAll s.uart.rxf (s.holding []) := receivePhase_of_bound hr hv
  refine ⟨_, run_serproc ho hp hc hb, ?received, ?flag, ?unsent⟩
  case received =>
    rw [← hphase] at hrec
    refine Eq.trans (received_congr ?_) (hrec.trans ?_)
    · simp [serprocBig]
    · rw [received_congr (s := s) (t := s.holding []) ⟨rfl, rfl, rfl⟩]
  case flag => simpa [serprocBig, hphase] using herr
  case unsent =>
    refine unsent_congr (funext fun k => ?_) (by simp [serprocBig]) rfl
    refine Eq.trans (bufferRead_congr ?_ ?_ _) (txqbuf_takeAll (s := s.holding []) hcap s.uart.rxf k)
    · simp [serprocBig, hphase]
    · simp [serprocBig]

end

section
/-! PROOF. The bounds of the queue registers, kept by every command but a host store to them, by every micro-step and
by every move of the environment (R49, R202). -/

namespace Sys2Proof.Machine

theorem serialInv_congr {s t : State} (h : SerialInv s)
    (hk : t.cfg = s.cfg ∧ t.rxqlen = s.rxqlen ∧ t.txqlen = s.txqlen ∧ t.txqcur = s.txqcur) : SerialInv t := by
  obtain ⟨hc, hr, hl, hx⟩ := hk
  simpa only [SerialInv, hc, hr, hl, hx] using h

theorem serialInv_of_zero {s : State} (hr : s.rxqlen = 0) (hl : s.txqlen = 0) (hx : s.txqcur = 0) : SerialInv s := by
  simp [SerialInv, hr, hl, hx]

theorem writeReg_queueRegisters (s : State) (r : Reg) (v : Byte) :
    (r = .rxqlen ∨ r = .txqlen ∨ r = .txqcur)
      ∨ (writeReg s r v).rxqlen = s.rxqlen ∧ (writeReg s r v).txqlen = s.txqlen
        ∧ (writeReg s r v).txqcur = s.txqcur := by
  cases r with
  | rxqlen => exact .inl (.inl rfl)
  | txqlen => exact .inl (.inr (.inl rfl))
  | txqcur => exact .inl (.inr (.inr rfl))
  | _ => exact .inr ⟨rfl, rfl, rfl⟩

/-- SERINIT empties the receive queue or leaves its length alone (R175). -/
theorem bindRx_rxqlen (rc : PinId) (s : State) : (bindRx rc s).rxqlen = 0 ∨ (bindRx rc s).rxqlen = s.rxqlen := by
  unfold bindRx bindRxSteps
  split <;> simp

theorem serialInv_serialSetup {s : State} (h : SerialInv s) (n d : Nat) (rc tx : PinId) :
    SerialInv (serialSetup n d rc tx s) := by
  have hlen : (serialSetup n d rc tx s).rxqlen = (bindRx rc (programBrg n d s)).rxqlen := by simp [serialSetup_eq]
  obtain hz | hk := bindRx_rxqlen rc (programBrg n d s)
  · simpa [SerialInv, hlen, hz] using h.2
  · exact serialInv_congr h (by simp [hlen, hk])

theorem exec_keeps_serialInv {i : Instr} {s t : State} (h : exec i s = .next t) (hs : SerialInv s)
    (hi : ∀ a v, i = .stb a v →
      ¬ (regAt s.cfg a = some .rxqlen ∨ regAt s.cfg a = some .txqlen ∨ regAt s.cfg a = some .txqcur)) :
    SerialInv t := by
  cases exec_cases h with
  | serinit rc tx n d _ _ _ _ ht => subst ht; exact serialInv_serialSetup hs n d rc tx
  | stb a v r he hr ht =>
    obtain hq | hk := writeReg_queueRegisters s r v
    · exact absurd (by simpa [hr] using hq) (hi a v he)
    · exact serialInv_congr hs (by simp [ht, hk])
  | _ => rename_i ht; exact serialInv_congr hs (by simp [ht])

theorem serialInv_takeByte {s : State} (h : SerialInv s) (hc : s.cfg.rxCap ≤ 255) (e : RxEntry) :
    SerialInv (takeByte e s) := by
  obtain hl | ⟨hf, hr⟩ := lost_or_stored e s
  · rw [takeByte_of_lost hl]; exact h
  · rw [takeByte_of_stored hf hr]
    refine ⟨?_, h.2⟩
    show (s.rxqlen + 1).toNat ≤ s.cfg.rxCap
    rw [toNat_add_one_of_lt hr hc]
    exact hr

theorem serialInv_microRxloop {s : State} (h : SerialInv s) (hc : s.cfg.rxCap ≤ 255) : SerialInv (microRxloop s) := by
  unfold microRxloop
  split
  · exact h
  · exact serialInv_takeByte (s := envPop s) h hc _

theorem serialInv_microTx {s : State} (h : SerialInv s) (hc : s.cfg.txCap ≤ 255) : SerialInv (microTx s) := by
  have hcur : (microTx s).txqcur = (transmit s).txqcur := rfl
  obtain heq | ⟨hy, heq⟩ := txqcur_transmit s
  · exact serialInv_congr h (by simp [hcur, heq])
  · obtain ⟨hr, -, hl⟩ := h
    obtain ⟨-, hlt, -⟩ := txSends_iff.mp hy
    refine ⟨by simpa using hr, ?_, by simpa using hl⟩
    rw [hcur, heq, toNat_add_one_of_lt hlt (hl.trans hc)]
    simpa using hlt

theorem BlockCase.keeps_serialInv {s t : State} (h : BlockCase s t) (ho : s.cfg.ok = true) (hs : SerialInv s)
    (hi : ∀ w ws a v, portOpen s = true → s.cmds = w :: ws → decode w = .ok (.stb a v) →
      ¬ (regAt s.cfg a = some .rxqlen ∨ regAt s.cfg a = some .txqlen ∨ regAt s.cfg a = some .txqcur)) :
    SerialInv t := by
  obtain ⟨hrx, htx⟩ := caps_of_ok ho
  cases h with
  | run w ws i hq hc hirq hw hd ht =>
    refine exec_keeps_serialInv ht (serialInv_congr hs (by simp)) fun a v he => ?_
    exact hi w ws a v (portOpen_iff.mpr ⟨hq, hc, hirq⟩) hw (he ▸ hd)
  | pRxloop _ ht => subst ht; exact serialInv_microRxloop hs hrx
  | pTx _ ht => subst ht; exact serialInv_microTx hs htx
  | _ => rename_i ht; exact serialInv_congr hs (by simp [ht])

theorem serialInv_envMove {s : State} (h : SerialInv s) (m : Move) : SerialInv (envMove m s) := by
  by_cases hm : m = .rst
  · subst hm; exact serialInv_of_zero rfl rfl rfl
  · exact serialInv_congr h (by simp [envMove_keeps hm])

end Sys2Proof.Machine
end

section
open Sys2Proof Sys2Proof.Machine

/-- Settles O35: a step is a move of the environment or a case of the block, and a command that is no store to the
three registers keeps the bounds (`exec_keeps_serialInv`). -/
theorem queueBoundsAreKept : Obligations.QueueBoundsAreKept := by
  intro s t h hs hno
  have ho := ok_of_step h
  have hs : SerialInv (beginStep s) := hs
  obtain ⟨m, ms, -, -, rfl⟩ | ⟨hb, hcase⟩ := step_cases h
  · exact serialInv_envMove hs m
  · exact hcase.keeps_serialInv ho hs fun w ws a v hp hw hd hreg => hno ⟨a, v, ⟨w, ws, ⟨ho, hb, hp, hw⟩, hd⟩, hreg⟩

end

section
/-! PROOF. A driver that polls: each SERPROC hands over the byte at the cursor and the line takes it before the next
(R199). -/

namespace Sys2Proof.Machine

/-- The hypotheses of R199's round trip, each of which a poll keeps. -/
structure Polled (s : State) : Prop where
  ok      : s.cfg.ok = true
  env     : s.cfg.uartEnv = .reference
  port    : portOpen s = true
  gie     : s.ictl.gie = false
  queue   : SerialInv s
  uartEn  : s.uctl.uartEn = true
  txEn    : s.uctl.txEn = true
  txbound : s.txbound ≠ nullPin
  txh     : s.uart.txh = []
  rxf     : s.uart.rxf = []
  oerr    : s.uart.oerr = false

/-- The state after one poll that sends, with the host's words ws and the schedule ms left. -/
def afterPoll (s : State) (ws : List Word) (ms : List Move) : State :=
  { s with
    txqcur := s.txqcur + 1
    uart := { s.uart with lineTx := s.uart.lineTx ++ [txqbuf s s.txqcur.toNat] }
    seq := .idle, procOwner := .bg, savedGie := s.ictl.gie, res := none, strobe := none, cmds := ws, moves := ms }

theorem receivePhase_of_nothing_held {s : State} (hf : s.uart.rxf = []) (hv : s.uart.oerr = false) :
    receivePhase s = s := by
  by_cases hr : s.rcbound = nullPin
  · exact receivePhase_of_unbound hr
  · rw [receivePhase_of_bound hr hv, hf, takeAll]
    simp [State.holding, ← hf]

theorem length_unsent (s : State) : (unsent s).length = s.txqlen.toNat - s.txqcur.toNat := by simp [unsent]

variable {s : State}

/-- The cursor stays inside the queue when it advances (R195). -/
theorem Polled.cursor_add_one (h : Polled s) (hlt : s.txqcur.toNat < s.txqlen.toNat) :
    (s.txqcur + 1).toNat = s.txqcur.toNat + 1 := by
  obtain ⟨-, -, hl⟩ := h.queue
  exact toNat_add_one_of_lt hlt (hl.trans (caps_of_ok h.ok).2)

theorem polled_afterPoll (h : Polled s) (hlt : s.txqcur.toNat < s.txqlen.toNat) (ws : List Word)
    (ms : List Move) : Polled (afterPoll s ws ms) where
  ok := h.ok
  env := h.env
  port := by
    obtain ⟨-, hbg, -⟩ := portOpen_iff.mp h.port
    exact portOpen_iff.mpr ⟨rfl, hbg, by simp [irq, afterPoll, h.gie]⟩
  gie := h.gie
  queue := by
    obtain ⟨hr, -, hl⟩ := h.queue
    exact ⟨hr, (h.cursor_add_one hlt).trans_le hlt, hl⟩
  uartEn := h.uartEn
  txEn := h.txEn
  txbound := h.txbound
  txh := h.txh
  rxf := h.rxf
  oerr := h.oerr

/-- With nothing to receive, a polled SERPROC hands over the byte at the cursor. -/
theorem Polled.serprocBig_eq (h : Polled s) (hlt : s.txqcur.toNat < s.txqlen.toNat) :
    serprocBig s =
      { envTxWrite (txqbuf s s.txqcur.toNat) { s with txqcur := s.txqcur + 1 } with
        savedGie := s.ictl.gie, procOwner := .bg, seq := .idle, res := some 0, strobe := none } := by
  have hr : txReady s = true := by simp [txReady, h.env, h.uartEn, h.txEn, h.txh]
  obtain ⟨-, -, hl⟩ := h.queue
  rw [serprocBig, receivePhase_of_nothing_held h.rxf h.oerr,
    transmit_of_sends (txSends_iff.mpr ⟨h.txbound, hlt, hr⟩) (hlt.trans_le hl)]

/-- A poll: a SERPROC that sends a byte (R195), and the line's taking of it (R269). -/
theorem Polled.run_poll (h : Polled s) (hlt : s.txqcur.toNat < s.txqlen.toNat) {ws : List Word} {ms : List Move}
    (hc : s.cmds = 0x21000000 :: ws) (hm : blockTurns s (serprocSteps s) (.sent :: ms)) :
    Host.Core.run Sys2Proof.core (serprocSteps s + 1) s = .next (afterPoll s ws ms) := by
  have hsent := step_env (s := { serprocBig s with cmds := ws, moves := .sent :: ms })
    (by simpa [serprocBig] using h.ok) rfl (by decide)
  calc Host.Core.run Sys2Proof.core (serprocSteps s + 1) s
    _ = Host.Core.run Sys2Proof.core 1 { serprocBig s with cmds := ws, moves := .sent :: ms } :=
        run_add (run_serproc h.ok h.port hc hm) 1
    _ = .next (envSent (beginStep { serprocBig s with cmds := ws, moves := .sent :: ms })) := run_succ hsent 0
    _ = .next (afterPoll s ws ms) := by
        rw [h.serprocBig_eq hlt]
        simp [envSent, envTxWrite, beginStep, afterPoll, h.env, h.txh]

theorem Polled.unsent_eq (h : Polled s) (hlt : s.txqcur.toNat < s.txqlen.toNat) (ws : List Word) (ms : List Move) :
    unsent s = txqbuf s s.txqcur.toNat :: unsent (afterPoll s ws ms) := by
  have hcur : (afterPoll s ws ms).txqcur.toNat = s.txqcur.toNat + 1 := h.cursor_add_one hlt
  have hlen : s.txqlen.toNat - s.txqcur.toNat = s.txqlen.toNat - (s.txqcur.toNat + 1) + 1 := by omega
  have hbuf : txqbuf (afterPoll s ws ms) = txqbuf s := rfl
  have htxqlen : (afterPoll s ws ms).txqlen = s.txqlen := rfl
  rw [unsent, unsent, hcur, hbuf, htxqlen, hlen, List.range_succ_eq_map]
  simp [Function.comp_def, Nat.add_assoc, Nat.add_comm 1]

/-- As many polls as there are unsent bytes (R199). -/
theorem Polled.run_polls {n : Nat} (h : Polled s) (hn : (unsent s).length = n) {ws : List Word} {rest : List Move}
    (hc : s.cmds = List.replicate n 0x21000000 ++ ws) (hm : s.moves = pollSchedule (serprocSteps s) n ++ rest) :
    ∃ t, Host.Core.run Sys2Proof.core ((serprocSteps s + 1) * n) s = .next t ∧ Polled t
      ∧ t.uart.lineTx = s.uart.lineTx ++ unsent s ∧ t.txqcur = t.txqlen ∧ t.txqlen = s.txqlen
      ∧ t.cmds = ws ∧ t.moves = rest := by
  induction n generalizing s with
  | zero =>
    obtain ⟨-, hle, -⟩ := h.queue
    have hcur : s.txqcur = s.txqlen := BitVec.eq_of_toNat_eq (by rw [length_unsent] at hn; omega)
    exact ⟨s, rfl, h, by simp [List.eq_nil_of_length_eq_zero hn], hcur, rfl, hc, hm⟩
  | succ n ih =>
    have hlt : s.txqcur.toNat < s.txqlen.toNat := by rw [length_unsent] at hn; omega
    let u := afterPoll s (List.replicate n 0x21000000 ++ ws) (pollSchedule (serprocSteps s) n ++ rest)
    have hpoll : Host.Core.run Sys2Proof.core (serprocSteps s + 1) s = .next u :=
      h.run_poll hlt hc (by rw [blockTurns, hm]; simp [pollSchedule])
    have hsplit : unsent s = txqbuf s s.txqcur.toNat :: unsent u := h.unsent_eq hlt _ _
    have hu : (unsent u).length = n := by simpa [hsplit] using hn
    obtain ⟨t, hrun, ht, hline, hcur, hlen, hrest⟩ := ih (polled_afterPoll h hlt _ _) hu rfl rfl
    refine ⟨t, ?_, ht, ?_, hcur, hlen, hrest⟩
    · rw [Nat.mul_succ, Nat.add_comm]
      exact (run_add hpoll _).trans hrun
    · rw [hline, hsplit]
      exact List.append_assoc s.uart.lineTx [_] _

end Sys2Proof.Machine
end

section
open Sys2Proof Sys2Proof.Machine

/-- Settles O36: by induction on the number of unsent bytes, one poll at a time (`Polled.run_poll`). -/
theorem polledSendIsFifoExactlyOnce : Obligations.PolledSendIsFifoExactlyOnce := by
  intro s ws rest ho he hp hg hq hu hx hb hh hf hv hc hm
  obtain ⟨t, hrun, ht, hline, hcur, hlen, hcmds, hmoves⟩ :=
    Polled.run_polls ⟨ho, he, hp, hg, hq, hu, hx, hb, hh, hf, hv⟩ rfl hc hm
  exact ⟨t, hrun, hline, ht.txh, hcur, hlen, hcmds, hmoves, ht.port⟩

end

section
/-! PROOF. The system commands (spec/44_system.md): NOP, CRITENT and CRITEXIT (R215 to R217), the byte LDB answers and
whether reading it uses up a draw (R224, R75), and what a stored byte reads back as (R225, R76). -/

namespace Sys2Proof.Machine

/-! ## NOP and the critical section -/

theorem exec_nop (s : State) : exec .nop s = .next (complete 0 s) := rfl

/-- CRITENT answers GIE as it was before it cleared it (R216). -/
theorem exec_critent (s : State) : exec .critent s = .next (complete (bitWord s.ictl.gie) (setGie false s)) := rfl

theorem exec_critexit (v : Bool) (s : State) : exec (.critexit v) s = .next (complete 0 (setGie v s)) := rfl

/-! ## Reading a register byte -/

theorem byteAt_of_regAt {s : State} {a : Addr} {r : Reg} (h : regAt s.cfg a = some r) :
    byteAt s a = some (readReg s r) := by simp [byteAt, h]

theorem afterRead_of_no_draw {s : State} {r : Reg} (h : readDraws s r = false) : afterRead s r = s := by
  simp [afterRead, h]

theorem afterRead_of_draw {s : State} {r : Reg} (h : readDraws s r = true) : afterRead s r = drawn s := by
  simp [afterRead, h]

/-- With a byte held, ferr is that byte's own mark (R41). -/
theorem ferr_of_cons {s : State} {e : RxEntry} {es : List RxEntry} (h : s.uart.rxf = e :: es) : ferr s = e.fe := by
  simp [ferr, h]

/-! ## Reading back a stored byte -/

/-- ICTL's reserved bits are not stored (R24, R76). -/
theorem Ictl.toByte_ofByte (v : Byte) : (Ictl.ofByte v).toByte = v &&& 0x87 := by
  revert v
  decide

/-- SERR's reserved bits are not stored (R46, R76). -/
theorem serrByte_writeReg (s : State) (v : Byte) : serrByte (writeReg s .serr v) = v &&& 0x01 := by
  have hbit : v &&& 1#8 = (BitVec.ofBool (v.getLsbD 0)).setWidth 8 := BitVec.and_one_eq_setWidth_ofBool_getLsbD
  exact (BitVec.setWidth_eq_append (by decide)).symm.trans hbit.symm

/-- What LDB would answer at the address of an STB that is done. -/
theorem byteAt_stb_same {s : State} {a : Addr} {r : Reg} (h : regAt s.cfg a = some r) (v : Byte) :
    byteAt (complete 0 (writeReg s r v)) a = some (readReg (writeReg s r v) r) := by
  rw [byteAt_complete]
  exact byteAt_of_regAt (by rwa [writeReg_cfg])

end Sys2Proof.Machine
end

section
open Sys2Proof Sys2Proof.Machine

/-- Settles O38: a response, with GIE written by the two critical-section commands (`setGie`) and nothing by NOP. -/
theorem nopAndCriticalSectionCommands : Obligations.NopAndCriticalSectionCommands := fun s v =>
  ⟨exec_nop s, exec_critent s, exec_critexit v s⟩

/-- Settles O39: LDB answers `readReg` of the register at the address, and USTA's ferr bit is the mark of the byte held
where there is one (`ferr_of_cons`). -/
theorem ldbRespondsWithTheByte : Obligations.LdbRespondsWithTheByte := by
  intro s a
  refine ⟨fun r hr hd => ?held, fun r hr hd => ?draw, fun hr => exec_ldb_of_unmapped hr, fun r hr => ?byte⟩
  case held =>
    have hexec := exec_ldb_of_mapped hr
    rw [afterRead_of_no_draw hd] at hexec
    exact ⟨_, byteAt_of_regAt hr, hexec⟩
  case draw =>
    have hexec := exec_ldb_of_mapped hr
    rw [afterRead_of_draw hd] at hexec
    exact ⟨_, byteAt_of_regAt hr, hexec⟩
  case byte =>
    refine ⟨readReg s r, byteAt_of_regAt hr, ?_⟩
    cases r with
    | usta => exact ⟨ferr s, rfl, fun _ _ h => ferr_of_cons h⟩
    | _ => rfl

/-- Settles O40: the store is `writeReg`; a byte of a wide register reads back by `byteOf_setByteOf_same`, a buffer's by
the laws of memory, and a register the host cannot write is left alone. -/
theorem stbStoresItsByte : Obligations.StbStoresItsByte := by
  intro s a v
  refine ⟨fun r hr => ⟨_, exec_stb_of_mapped hr v, rfl, ?_⟩, fun hr => exec_stb_of_unmapped hr v⟩
  have hread := byteAt_stb_same hr v
  obtain ⟨-, hwithin⟩ := regAt_addr hr
  cases r with
  | ictl => exact hread.trans (congrArg some (Ictl.toByte_ofByte v))
  | serr => exact hread.trans (congrArg some (serrByte_writeReg s v))
  | tmrms k | tmrus k | arg k =>
    have hk : _ < _ := hwithin
    exact hread.trans (congrArg some (byteOf_setByteOf_same _ k v (by omega)))
  | rxqbuf k => exact hread.trans (congrArg some (rxqbuf_setRxqbuf_same k v s))
  | txqbuf k => exact hread.trans (congrArg some (txqbuf_setTxqbuf_same k v s))
  | rxqlen | txqlen | txqcur => exact hread
  | _ => rfl

end

section
/-! PROOF. The interrupt (spec/60_exceptions.md R250 to R258): the request, entry, tick stage and return, an
undisturbed service as a function, and that no request is seen in interrupt context. -/

namespace Sys2Proof.Machine

/-! ## The request (R251) -/

theorem Ictl.toByte_bits (i : Ictl) : i.toByte.getLsbD 7 = i.gie ∧ i.toByte.getLsbD 2 = i.tickIe
    ∧ i.toByte.getLsbD 1 = i.rxIe ∧ i.toByte.getLsbD 0 = i.txIe := by
  obtain ⟨gie, tickIe, rxIe, txIe⟩ := i
  revert gie tickIe rxIe txIe
  decide

theorem iflgByte_bits (s : State) : (iflgByte s).getLsbD 2 = s.tickPending ∧ (iflgByte s).getLsbD 1 = rxReady s
    ∧ (iflgByte s).getLsbD 0 = txReady s := by
  unfold iflgByte
  generalize s.tickPending = p, rxReady s = r, txReady s = x
  revert p r x
  decide

theorem irq_iff {s : State} : irq s = true ↔ s.ictl.gie = true ∧
    ((s.ictl.tickIe = true ∧ s.tickPending = true) ∨ (s.ictl.rxIe = true ∧ rxReady s = true)
      ∨ (s.ictl.txIe = true ∧ txReady s = true)) := by
  simp [irq, sourcePending, or_assoc]

theorem irq_of_gie_eq_false {s : State} (h : s.ictl.gie = false) : irq s = false := by simp [irq, h]

/-! ## Entry, tick stage and return (R253, R254, R256) -/

theorem step_irq {s : State} (ho : s.cfg.ok = true) (hb : blockMoves s = true) (hs : s.seq = .idle) (hc : s.ctx = .bg)
    (hi : irq s = true) : step s = .next (interruptEntry (beginStep s)) := by
  rw [step_block ho hb, blockStep_irq (s := beginStep s) hs hc hi]

theorem step_iTick {s : State} (ho : s.cfg.ok = true) (hb : blockMoves s = true) (hs : s.seq = .iTick) :
    step s = .next (tickStage (beginStep s)) := by
  have hs : (beginStep s).seq = .iTick := hs
  rw [step_block ho hb, blockStep, hs]

theorem step_iRet {s : State} (ho : s.cfg.ok = true) (hb : blockMoves s = true) (hs : s.seq = .iRet) :
    step s = .next (interruptReturn (beginStep s)) := by
  have hs : (beginStep s).seq = .iRet := hs
  rw [step_block ho hb, blockStep, hs]

theorem tickStage_of_pending {s : State} (h : s.tickPending = true) :
    tickStage s = { timerTick s with procOwner := .int, seq := .pEnter } := by
  simp [tickStage, h]

theorem tickStage_of_not_pending {s : State} (h : s.tickPending = false) :
    tickStage s = { s with procOwner := .int, seq := .pEnter } := by
  simp [tickStage, h]

/-! ## An undisturbed service (R253 to R256) -/

/-- The state whose queues a service processes: the pending tick, if there is one, counted (R254). -/
def tickServed (s : State) : State := if s.tickPending then timerTick s else s

theorem tickServed_of_pending {s : State} (h : s.tickPending = true) : tickServed s = timerTick s := by
  simp [tickServed, h]

theorem tickServed_of_not_pending {s : State} (h : s.tickPending = false) : tickServed s = s := by
  simp [tickServed, h]

/-- A tick touches the timer's registers alone (R152). -/
theorem tickServed_eq (s : State) : tickServed s =
    { s with tmrms := (tickServed s).tmrms, tmrus := (tickServed s).tmrus, tickPending := false } := by
  cases h : s.tickPending with
  | true => rw [tickServed_of_pending h]; rfl
  | false => rw [tickServed_of_not_pending h, ← h]

theorem receiveLoops_tickServed (s : State) : receiveLoops (tickServed s) = receiveLoops s := by
  rw [tickServed_eq]; rfl

theorem serviceBig_eq (s : State) : serviceBig s =
    { transmit (receivePhase (tickServed s)) with savedGie := false, procOwner := .int, res := none, strobe := none } :=
  rfl

/-- The control a service enters SERPROC under, with the schedule ms left (R253, R254). -/
def Control.service (s : State) (ms : List Move) : Control where
  ctx := .int
  seq := .pEnter
  procOwner := .int
  savedGie := s.savedGie
  ictl := { s.ictl with gie := false }
  cmds := s.cmds
  moves := ms

theorem tickStage_interruptEntry (s : State) : tickStage (beginStep (interruptEntry (beginStep s)))
    = (tickServed s).under (.service s s.moves.tail.tail) := by
  cases h : s.tickPending with
  | true => rw [tickServed_of_pending h, tickStage_of_pending (s := beginStep (interruptEntry (beginStep s))) h]; rfl
  | false =>
    rw [tickServed_of_not_pending h, tickStage_of_not_pending (s := beginStep (interruptEntry (beginStep s))) h]; rfl

/-- Entry and tick stage. -/
theorem run_serviceEntry {s : State} {ms : List Move} (ho : s.cfg.ok = true) (hs : s.seq = .idle) (hc : s.ctx = .bg)
    (hi : irq s = true) (hm : s.moves = .block :: .block :: ms) (n : Nat) :
    Host.Core.run Sys2Proof.core (n + 2) s
      = Host.Core.run Sys2Proof.core n ((tickServed s).under (.service s ms)) := by
  have hentry := step_irq ho (blockMoves_iff.mpr (.inr ⟨_, hm⟩)) hs hc hi
  have hms : (interruptEntry (beginStep s)).moves = .block :: ms := by simp [hm]
  have htick := step_iTick (s := interruptEntry (beginStep s)) ho (blockMoves_iff.mpr (.inr ⟨_, hms⟩)) rfl
  rw [run_succ hentry, run_succ htick, tickStage_interruptEntry, hm]
  rfl

/-- SERPROC's exit in a service, which restores the 0 it saved, and the return, which sets GIE (R196, R256). -/
theorem run_serviceExit {s x : State} {ms rest : List Move} (ho : x.cfg.ok = true) :
    Host.Core.run Sys2Proof.core 2
        (x.under ((Control.service s ms).entered.seqTo .pExit (.block :: .block :: rest)))
      = .next { x.under ((Control.service s ms).entered.seqTo .idle rest) with
          ctx := .bg, ictl := { s.ictl with gie := true } } := by
  let y := x.under ((Control.service s ms).entered.seqTo .pExit (.block :: .block :: rest))
  have hexit : step y = .next (microExit (beginStep y)) := step_serprocMicro ho rfl rfl
  have hret := step_iRet (s := microExit (beginStep y)) ho rfl rfl
  exact (run_succ hexit 1).trans (run_succ hret 0)

/-- The whole of a service with no environment step inside it. -/
theorem run_service {s : State} {rest : List Move} (ho : s.cfg.ok = true) (hs : s.seq = .idle) (hc : s.ctx = .bg)
    (hi : irq s = true) (hb : blockTurns s (serviceSteps s) rest) :
    Host.Core.run Sys2Proof.core (serviceSteps s) s = .next { serviceBig s with moves := rest } := by
  let L := receiveLoops s
  let ms := List.replicate (L + 3) .block ++ .block :: .block :: rest
  have hL : receiveLoops (tickServed s) = L := receiveLoops_tickServed s
  have hok : (tickServed s).cfg.ok = true := by rw [tickServed_eq]; exact ho
  have hsched : s.moves = .block :: .block :: ms := by
    rw [hb, serviceSteps, show 7 + receiveLoops s = L + 3 + 1 + 1 + 1 + 1 by omega, List.replicate_succ,
      List.replicate_succ, List.replicate_succ', List.replicate_succ']
    simp [ms]
  have hgie : { s.ictl with gie := true } = s.ictl := by rw [← (irq_iff.mp hi).1]
  calc Host.Core.run Sys2Proof.core (serviceSteps s) s
    _ = Host.Core.run Sys2Proof.core (1 + 1 + (L + 3)) ((tickServed s).under (.service s ms)) := by
        rw [serviceSteps, show 7 + receiveLoops s = 1 + 1 + (L + 3) + 2 by omega]
        exact run_serviceEntry ho hs hc hi hsched _
    _ = Host.Core.run Sys2Proof.core 2 ((transmit (receivePhase (tickServed s))).under
          ((Control.service s ms).entered.seqTo .pExit (.block :: .block :: rest))) := by
        rw [← hL]
        exact run_serprocBody hok rfl (by rw [hL]; rfl) 1
    _ = .next { (transmit (receivePhase (tickServed s))).under ((Control.service s ms).entered.seqTo .idle rest) with
          ctx := .bg, ictl := { s.ictl with gie := true } } := run_serviceExit (by simpa using hok)
    _ = .next { serviceBig s with moves := rest } := by
        rw [hgie, serviceBig_eq, tickServed_eq]
        simp [State.under, Control.seqTo, Control.entered, Control.service, hs, hc]

/-! ## Interrupts do not nest (R257) -/

/-- GIE is 0 through all of a service. -/
theorem gie_eq_false_of_int {s : State} (h : ControlInv s) (hc : s.ctx = .int) : s.ictl.gie = false := by
  unfold ControlInv at h
  cases hs : s.seq <;> simp_all

/-- Of the block's steps in interrupt context the return alone leaves it. -/
theorem BlockCase.keeps_int {s t : State} (h : BlockCase s t) (hc : s.ctx = .int) :
    t.ctx = .int ∨ s.seq = .iRet ∧ t.ctx = .bg ∧ t.seq = .idle := by
  cases h with
  | rest _ hbg | drop _ _ _ _ hbg | run _ _ _ _ hbg | enter _ hbg => simp [hc] at hbg
  | ret hs ht => exact .inr ⟨hs, by simp [ht]⟩
  | _ => rename_i ht; exact .inl (by simp [ht, hc])

end Sys2Proof.Machine
end

section
open Sys2Proof Sys2Proof.Machine

/-- Settles O49: the run (`run_service`), and what the two phases of SERPROC and the tick leave alone. -/
theorem serviceRestoresTheBackground : Obligations.ServiceRestoresTheBackground := by
  intro s rest ho hs hc hi hb
  refine ⟨_, run_service ho hs hc hi hb, rfl, ?_⟩
  rw [serviceBig_eq]
  cases hp : s.tickPending with
  | true => rw [tickServed_of_pending hp]; simp [hs, hc]
  | false => rw [tickServed_of_not_pending hp]; simp [hs, hc, hp]

/-- Settles O50: in interrupt context GIE is 0, and `BlockCase.keeps_int`. -/
theorem interruptsDoNotNest : Obligations.InterruptsDoNotNest := by
  intro s t hinv hc hr h
  refine ⟨irq_of_gie_eq_false (gie_eq_false_of_int hinv hc), ?_⟩
  obtain ⟨m, ms, hm, -, rfl⟩ | ⟨-, hcase⟩ := step_cases h
  · have hm : m ≠ .rst := by rintro rfl; simp [hm] at hr
    exact .inl (by simp [envMove_keeps hm, hc])
  · exact hcase.keeps_int hc

/-- Settles O46: `irq_iff`, with each of its terms a bit of the byte at 0x000 or 0x001. -/
theorem interruptRequestEquation : Obligations.InterruptRequestEquation := by
  intro s ho
  refine ⟨s.ictl.toByte, iflgByte s, byteAt_ofNat_addr ho (r := .ictl) trivial,
    byteAt_ofNat_addr ho (r := .iflg) trivial, ?_⟩
  obtain ⟨hgie, htickIe, hrxIe, htxIe⟩ := s.ictl.toByte_bits
  obtain ⟨htick, hrx, htx⟩ := iflgByte_bits s
  rw [hgie, htickIe, hrxIe, htxIe, htick, hrx, htx]
  exact irq_iff

/-- Settles O47: `step_irq` and `step_iRet`. -/
theorem interruptEntryAndReturn : Obligations.InterruptEntryAndReturn := fun _ ho hb =>
  ⟨step_irq ho hb, step_iRet ho hb⟩

/-- Settles O48: the tick stage (`step_iTick`), whose tick is the one TMRTICK runs in interrupt context. -/
theorem tickStageTestsTickPending : Obligations.TickStageTestsTickPending := by
  intro s ho hb hs hc
  have hstep := step_iTick ho hb hs
  refine ⟨fun h => ?idle, fun h => ⟨timerTick (beginStep s), exec_tmrtick_of_int hc, ?tick⟩⟩
  case idle => rw [hstep, tickStage_of_not_pending (s := beginStep s) h]
  case tick => rw [hstep, tickStage_of_pending (s := beginStep s) h]

end

section
/-! PROOF. Errors (spec/60_exceptions.md R240 to R247): no step is without a next state, what a dropped command does,
who clears what it recorded, and who writes the error flag. -/

namespace Sys2Proof.Machine

/-! ## No error stops the block (R240) -/

theorem acceptCommand_isNext (s : State) : ∃ t, acceptCommand s = .next t := by
  unfold acceptCommand
  split
  · exact ⟨_, rfl⟩
  · split
    · exact ⟨_, rfl⟩
    · exact exec_isNext _ _

theorem boundary_isNext (s : State) : ∃ t, boundary s = .next t := by
  unfold boundary
  split
  · exact ⟨_, rfl⟩
  · exact acceptCommand_isNext s

/-- R23 excludes the one control state in which the block has no step. -/
theorem blockStep_isNext {s : State} (h : ControlInv s) : ∃ t, blockStep s = .next t := by
  unfold blockStep
  cases hs : s.seq with
  | idle =>
    have hc : s.ctx = .bg := by simpa [ControlInv, hs] using h
    rw [hc]
    exact boundary_isNext s
  | _ => exact ⟨_, rfl⟩

theorem step_isNext {s : State} (ho : s.cfg.ok = true) (h : ControlInv s) : ∃ t, step s = .next t := by
  by_cases hb : blockMoves s = true
  · rw [step_block ho hb]
    exact blockStep_isNext (s := beginStep s) h
  · cases hm : s.moves with
    | nil => exact absurd (blockMoves_iff.mpr (.inl hm)) hb
    | cons m ms => exact ⟨_, step_env ho hm fun he => hb (blockMoves_iff.mpr (.inr ⟨ms, by rw [hm, he]⟩))⟩

/-! ## Dropped commands (R109, R246) -/

/-- A word is rejected by checks 1 and 2, the decoder's, or by checks 3 to 5. -/
theorem decodeCommand_error_cases {c : Config} {w : Word} {e : Cause} (h : decodeCommand c w = .error e) :
    decode w = .error e ∨ ∃ i, decode w = .ok i ∧ portCause c i = some e := by
  unfold decodeCommand at h
  split at h
  · rename_i hd
    injection h with h
    exact .inl (h ▸ hd)
  · rename_i i hd
    split at h
    · rename_i hp
      injection h with h
      exact .inr ⟨i, hd, h ▸ hp⟩
    · cases h

/-- Checks 3 to 5 are made by the meanings: each drops exactly where its check fails. -/
theorem exec_of_portCause {i : Instr} {s : State} {e : Cause} (hc : s.ctx = .bg) (h : portCause s.cfg i = some e) :
    exec i s = .next (dropCommand e s) := by
  cases i with
  | pindir p | pinrd p | pinwr p | pinana p =>
    obtain ⟨hp, rfl⟩ : pinOk s.cfg p = false ∧ .invalidPin = e := by simpa [portCause] using h
    exact exec_onPin_invalid rfl hp
  | serinit rc tx =>
    obtain ⟨hp, rfl⟩ : ¬ (pinOk s.cfg rc = true ∧ pinOk s.cfg tx = true) ∧ .invalidPin = e := by
      simpa [portCause] using h
    exact exec_serinit_of_badPin hp
  | tmrtick =>
    injection h with h
    subst h
    exact exec_tmrtick_of_bg hc
  | ldb a =>
    obtain ⟨ha, rfl⟩ : regAt s.cfg a = none ∧ .unmappedAddress = e := by simpa [portCause] using h
    exact exec_ldb_of_unmapped ha
  | stb a v =>
    obtain ⟨ha, rfl⟩ : regAt s.cfg a = none ∧ .unmappedAddress = e := by simpa [portCause] using h
    exact exec_stb_of_unmapped ha v
  | nop | tmrinit | serproc | critent | critexit => cases h

theorem step_of_rejected {s : State} {w : Word} {rest : List Word} {e : Cause} (ha : accepts s w rest)
    (hd : decodeCommand s.cfg w = .error e) : step s = .next (dropCommand e (accepted s rest)) := by
  rw [step_accepts ha]
  obtain hd | ⟨i, hd, hp⟩ := decodeCommand_error_cases hd
  · rw [hd]
  · obtain ⟨-, -, hopen, -⟩ := ha
    obtain ⟨-, hbg, -⟩ := portOpen_iff.mp hopen
    rw [hd]
    exact exec_of_portCause (s := accepted s rest) hbg hp

/-! ## The recorded cause (R26, R246) -/

theorem Stat.record_of_cmderr {t : Stat} (h : t.cmderr = true) (c : Cause) : t.record c = t := by
  obtain ⟨cmderr, cause, tmrRun⟩ := t
  cases h
  rfl

theorem exec_keeps_cause {i : Instr} {s t : State} (h : exec i s = .next t) (he : s.stat.cmderr = true) :
    t.stat.cmderr = true ∧ t.stat.cause = s.stat.cause := by
  cases exec_cases h with
  | drop c ht => simp [ht, Stat.record_of_cmderr he, he]
  | _ => rename_i ht; simp [ht, he]

theorem BlockCase.keeps_cause {s t : State} (h : BlockCase s t) (he : s.stat.cmderr = true) :
    t.stat.cmderr = true ∧ t.stat.cause = s.stat.cause := by
  cases h with
  | run w ws i hs hc hq hw hd ht => exact exec_keeps_cause (s := { s with cmds := ws }) ht he
  | drop w ws c hs hc hq hw hd ht => simp [ht, Stat.record_of_cmderr he, he]
  | _ => rename_i ht; simp [ht, he]

theorem step_keeps_cause {s t : State} (h : step s = .next t) (he : s.stat.cmderr = true)
    (hr : s.moves.head? ≠ some .rst) : t.stat.cmderr = true ∧ t.stat.cause = s.stat.cause := by
  obtain ⟨m, ms, hm, -, rfl⟩ | ⟨-, hcase⟩ := step_cases h
  · have hm : m ≠ .rst := by rintro rfl; simp [hm] at hr
    simp [envMove_keeps hm, he]
  · exact hcase.keeps_cause he

/-! ## The error flag (R46, R242) -/

/-- The three conditions of the receive phase that set the error flag (R193, R194). -/
def receiveError (s : State) : Prop :=
  (s.seq = .pRxchk ∧ s.rcbound ≠ nullPin ∧ s.uart.oerr = true)
    ∨ (s.seq = .pRxloop ∧ ∃ e rest, s.uart.rxf = e :: rest ∧ (e.fe = true ∨ s.cfg.rxCap ≤ s.rxqlen.toNat))

/-- S_P_RXCHK moves SEQ on and no more, or finds an overrun and resets the receiver (R193). -/
theorem microRxchk_cases (s : State) :
    (∃ q, microRxchk s = { s with seq := q })
      ∨ (s.rcbound ≠ nullPin ∧ s.uart.oerr = true
        ∧ microRxchk s = flagSerErr (envRxReset { s with uctl := { s.uctl with rxEn := true }, seq := .pTx })) := by
  by_cases hr : s.rcbound = nullPin
  · exact .inl ⟨_, microRxchk_of_unbound hr⟩
  · cases ho : s.uart.oerr with
    | true => exact .inr ⟨hr, rfl, microRxchk_of_overrun hr ho⟩
    | false => exact .inl ⟨_, microRxchk_of_bound hr ho⟩

theorem microRxchk_serr {s : State} (hs : s.seq = .pRxchk) :
    (microRxchk s).serr = s.serr ∨ receiveError s ∧ (microRxchk s).serr = true := by
  obtain ⟨q, h⟩ | ⟨hr, ho, h⟩ := microRxchk_cases s
  · exact .inl (by rw [h])
  · exact .inr ⟨.inl ⟨hs, hr, ho⟩, by rw [h]; rfl⟩

theorem microRxloop_serr {s : State} (hs : s.seq = .pRxloop) :
    (microRxloop s).serr = s.serr ∨ receiveError s ∧ (microRxloop s).serr = true := by
  cases hx : s.uart.rxf with
  | nil => exact .inl (by rw [microRxloop_of_nil hx])
  | cons e es =>
    rw [microRxloop_of_cons hx]
    obtain hl | ⟨hf, hroom⟩ := lost_or_stored e (envPop s)
    · exact .inr ⟨.inr ⟨hs, e, es, hx, hl⟩, by rw [takeByte_of_lost hl]; rfl⟩
    · exact .inl (by rw [takeByte_of_stored hf hroom]; rfl)

theorem serialSetup_serr (n d : Nat) (rc tx : PinId) (s : State) : (serialSetup n d rc tx s).serr = false := by
  simp [serialSetup_eq]

theorem writeReg_serr (s : State) (r : Reg) (v : Byte) :
    (writeReg s r v).serr = s.serr ∨ r = .serr ∧ (writeReg s r v).serr = v.getLsbD 0 := by
  cases r with
  | serr => exact .inr ⟨rfl, rfl⟩
  | _ => exact .inl rfl

theorem eq_of_regAt_serr {c : Config} {a : Addr} (h : regAt c a = some .serr) : a = 0x00C :=
  BitVec.eq_of_toNat_eq (regAt_addr h).1

/-- Of the commands, a SERINIT that succeeds and a store to SERR write the error flag. -/
theorem exec_serr {i : Instr} {s t : State} (h : exec i s = .next t) :
    t.serr = s.serr ∨ ((∃ rc tx, i = .serinit rc tx ∧ brgSelect s.cfg s.arg.toNat ≠ none) ∧ t.serr = false)
      ∨ ∃ v, i = .stb 0x00C v ∧ t.serr = v.getLsbD 0 := by
  cases exec_cases h with
  | serinit rc tx n d hi hrc htx hsel ht =>
    exact .inr (.inl ⟨⟨rc, tx, hi, by simp [hsel]⟩, by simp [ht, serialSetup_serr]⟩)
  | stb a v r hi hr ht =>
    obtain hk | ⟨rfl, hset⟩ := writeReg_serr s r v
    · exact .inl (by simpa [ht] using hk)
    · exact .inr (.inr ⟨v, eq_of_regAt_serr hr ▸ hi, by simpa [ht] using hset⟩)
  | _ => rename_i ht; exact .inl (by simp [ht])

/-- What a step does to the error flag, reset apart. -/
theorem step_serr {s t : State} (h : step s = .next t) (hr : s.moves.head? ≠ some .rst) :
    t.serr = s.serr ∨ (receiveError s ∧ t.serr = true)
      ∨ ((∃ rc tx, runsNext s (.serinit rc tx) ∧ brgSelect s.cfg s.arg.toNat ≠ none) ∧ t.serr = false)
      ∨ ∃ v, runsNext s (.stb 0x00C v) ∧ t.serr = v.getLsbD 0 := by
  obtain ⟨m, ms, hm, -, rfl⟩ | ⟨hb, hcase⟩ := step_cases h
  · have hm : m ≠ .rst := by rintro rfl; simp [hm] at hr
    exact .inl (by simp [envMove_keeps hm])
  · cases hcase with
    | run w ws i hs hc hq hw hd ht =>
      have hrun := runsNext_of_run (ok_of_step h) hb hs hc hq hw hd
      obtain heq | ⟨⟨rc, tx, rfl, hsel⟩, hclear⟩ | ⟨v, rfl, hset⟩ := exec_serr ht
      · exact .inl heq
      · exact .inr (.inr (.inl ⟨⟨rc, tx, hrun, hsel⟩, hclear⟩))
      · exact .inr (.inr (.inr ⟨v, hrun, hset⟩))
    | pRxchk hs ht => subst ht; exact (microRxchk_serr hs).imp_right .inl
    | pRxloop hs ht => subst ht; exact (microRxloop_serr hs).imp_right .inl
    | _ => rename_i ht; exact .inl (by simp [ht])

end Sys2Proof.Machine
end

section
open Sys2Proof Sys2Proof.Machine

/-- Settles O7: a rejected word is dropped, whichever check rejects it (`step_of_rejected`), and `step_keeps_cause`. -/
theorem droppedCommandChangesOnlyStat : Obligations.DroppedCommandChangesOnlyStat := by
  refine ⟨fun s w rest e ha hd => ?_, fun s t => step_keeps_cause⟩
  rw [step_of_rejected ha hd]
  cases e <;> rfl

/-- Settles O37: the cases of `step_serr`. -/
theorem errorFlagSetAndCleared : Obligations.ErrorFlagSetAndCleared := by
  intro s t h hr
  obtain heq | ⟨herr, hset⟩ | ⟨hser, hclear⟩ | ⟨v, hrun, hv⟩ := step_serr h hr
  · exact ⟨fun hs ht => by simp [heq, hs] at ht, fun hs ht => by simp [heq, hs] at ht⟩
  · exact ⟨fun _ _ => or_assoc.mp (.inl herr), fun _ ht => by simp [hset] at ht⟩
  · exact ⟨fun _ ht => by simp [hclear] at ht, fun _ _ => .inl hser⟩
  · exact ⟨fun _ ht => .inr (.inr ⟨v, hrun, hv.symm.trans ht⟩), fun _ ht => .inr ⟨v, hrun, hv.symm.trans ht⟩⟩

/-- Settles O59: the configuration and the control state are what a step asks for (`step_isNext`). -/
theorem noErrorStopsTheBlock : Obligations.NoErrorStopsTheBlock := fun _ ⟨ho, hc, _⟩ => step_isNext ho hc

end

section
/-! PROOF. The block's side of the UART contract (spec/60_exceptions.md R267, R268, R270): what a step does to the
received bytes held, and to the bytes sent and to be sent. -/

namespace Sys2Proof.Machine

/-! ## The peripheral's own steps (R267 to R269) -/

/-- What a move of the environment makes of the peripheral u. -/
inductive UartMove (u u' : Uart) : Prop where
  | rests (h : u' = u)
  | receives (e : RxEntry) (h : u' = { u with rxf := u.rxf ++ [e] })
  | overruns (h : u' = { u with oerr := true })
  | sends (b : Byte) (rest : List Byte) (hx : u.txh = b :: rest)
      (h : u' = { u with txh := rest, lineTx := u.lineTx ++ [b] })
  | setsLevel (v : Bool) (h : u' = { u with txLevel := v })

theorem uartMove_envMove {m : Move} (hm : m ≠ .rst) (s : State) : UartMove s.uart (envMove m s).uart := by
  cases m with
  | rst => exact absurd rfl hm
  | block | tick => exact .rests rfl
  | arrive b fe =>
    simp only [envMove, envArrive]
    split
    · split
      · exact .rests rfl
      · split
        · exact .receives ⟨b, fe⟩ rfl
        · exact .overruns rfl
    · exact .rests rfl
  | sent =>
    cases hx : s.uart.txh with
    | nil => exact .rests (envSent_uart_nil hx)
    | cons b rest => exact .sends b rest hx (envSent_uart_cons hx)
  | deliver b fe =>
    simp only [envMove, envDeliver]
    split
    · exact .receives ⟨b, fe⟩ rfl
    · exact .rests rfl
  | overrun =>
    simp only [envMove, envOverrun]
    split
    · exact .overruns rfl
    · exact .rests rfl
  | txReady v =>
    simp only [envMove, envTxLevel]
    split
    · exact .setsLevel v rfl
    · exact .rests rfl

/-- The transmit phase hands over nothing, or one byte (R195). -/
theorem transmit_cases (s : State) : transmit s = s
    ∨ txReady s = true ∧ ∃ b, (transmit s).uart = (envTxWrite b s).uart ∧ (transmit s).strobe = some (.txWrite b) := by
  cases h : txSends s with
  | false => exact .inl (transmit_of_not_sends h)
  | true =>
    obtain ⟨-, -, hready⟩ := txSends_iff.mp h
    by_cases hc : s.txqcur.toNat < s.cfg.txCap
    · exact .inr ⟨hready, _, by rw [transmit_of_sends h hc]; exact ⟨rfl, rfl⟩⟩
    · refine .inr ⟨hready, nextDraw s, ?_⟩
      rw [transmit_of_sends_beyond h (Nat.not_lt.mp hc)]
      exact ⟨by simp [envTxWrite], rfl⟩

/-! ## The received bytes (R267, R270) -/

/-- What a step that raises the strobe `st` makes of what the receiver holds. -/
inductive ReceiverCase (flush : Bool) (u u' : Uart) (st : Option Strobe) : Prop where
  /-- what is held stays, with any further bytes after it -/
  | holds (more : List RxEntry) (hx : u'.rxf = u.rxf ++ more) (ho : u.oerr = true → u'.oerr = true)
  | pops (e : RxEntry) (hx : u.rxf = e :: u'.rxf) (ho : u'.oerr = u.oerr) (hst : st = some .pop)
  | resets (hx : u'.rxf = if flush then [] else u.rxf) (hst : st = some .rxReset)

/-- A step from s to t treats what the receiver holds as R267 and R270 allow. -/
abbrev ReceiverStep (s t : State) : Prop := ReceiverCase s.cfg.rxResetFlush s.uart t.uart t.strobe

theorem receiverStep_of_uart_eq {s t : State} (h : t.uart = s.uart) : ReceiverStep s t :=
  .holds [] (by simp [h]) (by simp [h])

/-- The environment may add a byte and raise the overrun, and no more (R267 (iv)). -/
theorem receiverStep_envMove {m : Move} (hm : m ≠ .rst) (s : State) : ReceiverStep s (envMove m s) := by
  cases uartMove_envMove hm s with
  | rests h => exact receiverStep_of_uart_eq h
  | receives e h => exact .holds [e] (by simp [h]) (by simp [h])
  | overruns h => exact .holds [] (by simp [h]) (by simp [h])
  | sends b rest hx h => exact .holds [] (by simp [h]) (by simp [h])
  | setsLevel v h => exact .holds [] (by simp [h]) (by simp [h])

theorem receiverStep_microRxchk (s : State) : ReceiverStep s (microRxchk s) := by
  obtain ⟨q, h⟩ | ⟨-, -, h⟩ := microRxchk_cases s
  · exact receiverStep_of_uart_eq (by rw [h])
  · rw [h]; exact .resets rfl rfl

theorem receiverStep_microRxloop (s : State) : ReceiverStep s (microRxloop s) := by
  cases hx : s.uart.rxf with
  | nil => exact receiverStep_of_uart_eq (by rw [microRxloop_of_nil hx])
  | cons e rest => rw [microRxloop_of_cons hx]; exact .pops e (by simp [hx]) (by simp) (by simp)

theorem receiverStep_transmit (s : State) : ReceiverStep s (transmit s) := by
  obtain h | ⟨-, b, hu, -⟩ := transmit_cases s
  · exact receiverStep_of_uart_eq (by rw [h])
  · exact .holds [] (by simp [hu, envTxWrite]) (by simp [hu, envTxWrite])

theorem BlockCase.receiverStep {s t : State} (h : BlockCase s t) : ReceiverStep s t := by
  cases h with
  | run w ws i hs hc hq hw hd ht =>
    obtain ⟨-, -, -, -, -, -, hu, -⟩ := exec_keeps ht
    exact receiverStep_of_uart_eq hu
  | pRxchk hs ht => subst ht; exact receiverStep_microRxchk s
  | pRxloop hs ht => subst ht; exact receiverStep_microRxloop s
  | pTx hs ht => subst ht; exact receiverStep_transmit s
  | _ => rename_i ht; exact receiverStep_of_uart_eq (by simp [ht])

theorem receiverStep_of_step {s t : State} (h : step s = .next t) (hr : s.moves.head? ≠ some .rst) :
    ReceiverStep s t := by
  obtain ⟨m, ms, hm, -, rfl⟩ | ⟨-, hcase⟩ := step_cases h
  · exact receiverStep_envMove (by rintro rfl; simp [hm] at hr) (beginStep s)
  · exact hcase.receiverStep

/-! ## The bytes to send (R268) -/

/-- Every byte handed to the transmitter, oldest first: those sent, then those held. -/
def Uart.handedOver (u : Uart) : List Byte := u.lineTx ++ u.txh

/-- The line takes the oldest byte held, which is then the last sent. -/
theorem handedOver_envMove {m : Move} (hm : m ≠ .rst) (s : State) :
    (envMove m s).uart.handedOver = s.uart.handedOver := by
  cases uartMove_envMove hm s with
  | sends b rest hx h => simp [h, Uart.handedOver, hx]
  | rests h => rw [h]
  | receives e h => rw [h]; rfl
  | overruns h => rw [h]; rfl
  | setsLevel v h => rw [h]; rfl

/-- While tx_ready is 1 the transmitter of the reference environment holds no byte that a new one could replace. -/
theorem handedOver_envTxWrite {s : State} (h : txReady s = true) (b : Byte) :
    (envTxWrite b s).uart.handedOver = s.uart.handedOver ++ [b] := by
  cases he : s.cfg.uartEnv with
  | reference =>
    obtain ⟨-, hx⟩ : (s.uctl.uartEn = true ∧ s.uctl.txEn = true) ∧ s.uart.txh = [] := by simpa [txReady, he] using h
    simp [envTxWrite, Uart.handedOver, he, hx]
  | contract => simp [envTxWrite, Uart.handedOver, he]

/-- What a step from s to t does to the bytes handed over: none is added, or one, under tx_ready and with its strobe. -/
inductive TransmitterStep (s t : State) : Prop where
  | holds (hx : t.uart.handedOver = s.uart.handedOver) (hst : ∀ b, t.strobe ≠ some (.txWrite b))
  | takes (b : Byte) (hx : t.uart.handedOver = s.uart.handedOver ++ [b]) (hst : t.strobe = some (.txWrite b))
      (hready : txReady s = true)

theorem transmitterStep_microRxchk {s : State} (hw : s.strobe = none) : TransmitterStep s (microRxchk s) := by
  obtain ⟨q, h⟩ | ⟨-, -, h⟩ := microRxchk_cases s
  · rw [h]; exact .holds rfl (by simp [hw])
  · rw [h]; exact .holds rfl (by simp)

theorem transmitterStep_microRxloop {s : State} (hw : s.strobe = none) : TransmitterStep s (microRxloop s) := by
  cases hx : s.uart.rxf with
  | nil => rw [microRxloop_of_nil hx]; exact .holds rfl (by simp [hw])
  | cons e rest => rw [microRxloop_of_cons hx]; exact .holds (by simp [Uart.handedOver]) (by simp)

theorem transmitterStep_microTx {s : State} (hw : s.strobe = none) : TransmitterStep s (microTx s) := by
  obtain h | ⟨hready, b, hu, hst⟩ := transmit_cases s
  · exact .holds (by rw [microTx, h]) (by simp [microTx, h, hw])
  · exact .takes b ((congrArg Uart.handedOver hu).trans (handedOver_envTxWrite hready b)) hst hready

/-- The strobes being down before it, a block step raises that of a byte handed over in S_P_TX alone (R43, R195). -/
theorem BlockCase.transmitterStep {s t : State} (h : BlockCase s t) (hw : s.strobe = none) : TransmitterStep s t := by
  cases h with
  | run w ws i hs hc hq _ hd ht =>
    obtain ⟨-, -, -, hst, -, -, hu, -⟩ := exec_keeps ht
    exact .holds (by rw [hu]) (by simp [hst, hw])
  | pRxchk hs ht => subst ht; exact transmitterStep_microRxchk hw
  | pRxloop hs ht => subst ht; exact transmitterStep_microRxloop hw
  | pTx hs ht => subst ht; exact transmitterStep_microTx hw
  | _ => rename_i ht; exact .holds (by simp [ht]) (by simp [ht, hw])

theorem transmitterStep_of_step {s t : State} (h : step s = .next t) (hr : s.moves.head? ≠ some .rst) :
    TransmitterStep (beginStep s) t := by
  obtain ⟨m, ms, hm, -, rfl⟩ | ⟨-, hcase⟩ := step_cases h
  · have hm : m ≠ .rst := by rintro rfl; simp [hm] at hr
    exact .holds (handedOver_envMove hm _) (by simp [envMove_keeps hm, beginStep])
  · exact hcase.transmitterStep rfl

end Sys2Proof.Machine
end

section
open Sys2Proof Sys2Proof.Machine

/-- Settles O53: the cases of `ReceiverCase`; a reset that does not flush leaves every byte. -/
theorem receivedByteIsStable : Obligations.ReceivedByteIsStable := by
  intro s t h hr
  cases receiverStep_of_step h hr with
  | holds more hx ho => exact ⟨fun e rest hs => .inl ⟨more, by rw [hx, hs]⟩, fun hs => .inl (ho hs)⟩
  | pops e hx ho hst =>
    refine ⟨fun e' rest hs => ?_, fun hv => .inl (ho.trans hv)⟩
    obtain ⟨-, hrest⟩ : e = e' ∧ t.uart.rxf = rest := by simpa [hx] using hs
    exact .inr (.inl ⟨hst, hrest⟩)
  | resets hx hst =>
    refine ⟨fun e rest hs => ?_, fun _ => .inr hst⟩
    cases hflush : s.cfg.rxResetFlush with
    | true => exact .inr (.inr ⟨hst, rfl, by simp [hx, hflush]⟩)
    | false => exact .inl ⟨[], by simp [hx, hflush, hs]⟩

/-- Settles O54: the two cases of `TransmitterStep`. -/
theorem transmittedBytesKeepTheirOrder : Obligations.TransmittedBytesKeepTheirOrder := by
  intro s t h hr
  cases transmitterStep_of_step h hr with
  | holds hx hst => exact ⟨fun b hb => absurd hb (hst b), fun _ => hx⟩
  | takes b hx hst hready =>
    refine ⟨fun b' hb => ?_, fun hno => absurd hst (hno b)⟩
    obtain rfl : b = b' := by simpa [hst] using hb
    exact ⟨hready, hx⟩

end

section
/-! PROOF. Reset (spec/70_reset_and_hazards.md R280, R282) and the storm of a request no service can make go away
(R296): the request and the control it holds the block under, kept by every undisturbed step. -/

namespace Sys2Proof.Machine

/-! ## Reset (R280, R282) -/

/-- After `rst` a command is next and no interrupt, whatever the environment raises: GIE is 0. -/
theorem portOpen_blockReset (s : State) : portOpen (blockReset s) = true :=
  portOpen_iff.mpr ⟨rfl, rfl, irq_of_gie_eq_false rfl⟩

theorem blockReset_uart_reference {s : State} (h : s.cfg.uartEnv = .reference) : (blockReset s).uart = .empty := by
  simp [blockReset, h]

/-! ## The two requests no service can make go away (R296) -/

/-- Transmit-ready is enabled and raised, and there is nothing to send or no pin to send it on. -/
def transmitStorm (s : State) : Prop :=
  s.ictl.txIe = true ∧ txReady s = true ∧ (s.txbound = nullPin ∨ s.txqlen.toNat ≤ s.txqcur.toNat)

/-- Receive-ready is enabled and raised, there is no pin bound, and SERPROC is not in the loop that would take the byte
all the same. -/
def receiveStorm (s : State) : Prop :=
  s.ictl.rxIe = true ∧ rxReady s = true ∧ s.rcbound = nullPin ∧ s.seq ≠ .pRxloop

theorem storm_of_unservable {s : State} (h : unservable s = true) (hs : s.seq = .idle) :
    transmitStorm s ∨ receiveStorm s := by
  simpa [unservable, transmitStorm, receiveStorm, hs, and_assoc] using h

theorem irq_of_storm {s : State} (hg : s.ictl.gie = true) (h : transmitStorm s ∨ receiveStorm s) : irq s = true := by
  obtain ⟨hie, hready, -⟩ | ⟨hie, hready, -⟩ := h
  · exact irq_iff.mpr ⟨hg, .inr (.inr ⟨hie, hready⟩)⟩
  · exact irq_iff.mpr ⟨hg, .inr (.inl ⟨hie, hready⟩)⟩

/-- The transmit phase sends nothing, so tx_ready stays up (R195). -/
theorem txSends_of_transmitStorm {s : State} (h : transmitStorm s) : txSends s = false := by
  obtain ⟨-, -, hnone⟩ := h
  exact txSends_eq_false_iff.mpr (or_assoc.mp (.inl hnone))

theorem microEnter_ictl (s : State) : (microEnter s).ictl = { s.ictl with gie := false } := rfl

theorem microExit_ictl (s : State) : (microExit s).ictl = { s.ictl with gie := s.savedGie } := by
  cases h : s.procOwner with
  | int => rw [microExit_of_int h]
  | bg => rw [microExit_of_bg h]

/-- Only an accepted command could end it: a service sends nothing, and leaves the enables it rests on alone. -/
theorem BlockCase.keeps_transmitStorm {s t : State} (h : BlockCase s t) (hp : portOpen s = false)
    (hst : transmitStorm s) : transmitStorm t := by
  cases h with
  | run w ws i hs hc hi => simp [portOpen_iff.mpr ⟨hs, hc, hi⟩] at hp
  | pTx hs ht => rwa [ht, microTx, transmit_of_not_sends (txSends_of_transmitStorm hst)]
  | pRxchk hs ht =>
    obtain ⟨q, hm⟩ | ⟨-, -, hm⟩ := microRxchk_cases s
    · rwa [ht, hm]
    · rw [ht, hm]; exact hst
  | pRxloop hs ht =>
    cases hx : s.uart.rxf with
    | nil => rwa [ht, microRxloop_of_nil hx]
    | cons e es => simpa [ht, microRxloop_of_cons hx, transmitStorm, txReady] using hst
  | _ => rename_i ht; simpa [ht, microEnter_ictl, microExit_ictl, transmitStorm, txReady] using hst

/-- With no receive pin bound S_P_RXCHK passes the loop by (R193), so the byte is never taken. -/
theorem BlockCase.skips_receiveLoop {s t : State} (h : BlockCase s t) (hp : portOpen s = false)
    (hnull : s.rcbound = nullPin) (hloop : s.seq ≠ .pRxloop) : t.seq ≠ .pRxloop := by
  cases h with
  | rest hs hc hi | drop _ _ _ hs hc hi | run _ _ _ hs hc hi => simp [portOpen_iff.mpr ⟨hs, hc, hi⟩] at hp
  | enter _ _ _ ht | ret _ ht => simp [ht]
  | tick _ ht => simp [ht, tickStage]
  | pEnter _ ht => simp [ht, microEnter]
  | pRxchk _ ht => simp [ht, microRxchk_of_unbound hnull]
  | pRxloop hs => exact absurd hs hloop
  | pTx _ ht => simp [ht, microTx_seq]
  | pExit _ ht => obtain ⟨-, hq⟩ | ⟨-, hq⟩ := microExit_seq s <;> simp [ht, hq]

/-- Only an accepted command or the receive loop could end it: no other step binds a pin or takes the byte. -/
theorem BlockCase.keeps_receiveStorm {s t : State} (h : BlockCase s t) (hp : portOpen s = false)
    (hst : receiveStorm s) : receiveStorm t := by
  obtain ⟨hie, hready, hnull, hloop⟩ := hst
  have hnext := h.skips_receiveLoop hp hnull hloop
  cases h with
  | run w ws i hs hc hi => simp [portOpen_iff.mpr ⟨hs, hc, hi⟩] at hp
  | pRxloop hs => exact absurd hs hloop
  | pRxchk hs ht => rw [ht, microRxchk_of_unbound hnull] at hnext ⊢; exact ⟨hie, hready, hnull, hnext⟩
  | pTx hs ht => exact ⟨by simpa [ht] using hie, by simpa [ht, microTx, rxReady, rxf_transmit] using hready,
      by simpa [ht] using hnull, hnext⟩
  | _ =>
    rename_i ht
    exact ⟨by simpa [ht, microEnter_ictl, microExit_ictl] using hie, by simpa [ht, rxReady] using hready,
      by simpa [ht] using hnull, hnext⟩

/-! ## The live-lock (R252, R256, R296) -/

/-- The block is undisturbed and serves such a request, or stands at a boundary where it is about to. -/
structure Livelocked (s : State) : Prop where
  ok : s.cfg.ok = true
  undisturbed : s.moves = []
  control : ControlInv s
  storm : transmitStorm s ∨ receiveStorm s
  serving : s.ctx = .int ∨ s.seq = .idle ∧ s.ictl.gie = true

theorem Livelocked.portOpen_eq_false {s : State} (h : Livelocked s) : portOpen s = false := by
  rw [Bool.eq_false_iff, Ne, portOpen_iff]
  rintro ⟨-, hc, hi⟩
  obtain hint | ⟨-, hg⟩ := h.serving
  · simp [hint] at hc
  · simp [irq_of_storm hg h.storm] at hi

theorem BlockCase.keeps_serving {s t : State} (h : BlockCase s t) (hp : portOpen s = false)
    (hv : s.ctx = .int ∨ s.seq = .idle ∧ s.ictl.gie = true) : t.ctx = .int ∨ t.seq = .idle ∧ t.ictl.gie = true := by
  cases h with
  | rest hs hc hi | drop _ _ _ hs hc hi | run _ _ _ hs hc hi => simp [portOpen_iff.mpr ⟨hs, hc, hi⟩] at hp
  | enter _ _ _ ht => exact .inl (by simp [ht])
  | ret _ ht => exact .inr (by simp [ht])
  | _ hs ht =>
    have hc : s.ctx = .int := hv.resolve_right (by simp [hs])
    exact .inl (by simp [ht, hc])

theorem BlockCase.keeps_moves {s t : State} (h : BlockCase s t) : t.moves = s.moves := by
  cases h with
  | run w ws i hs hc hi hw hd ht =>
    obtain ⟨-, -, -, -, -, hm, -⟩ := exec_keeps ht
    exact hm
  | _ => rename_i ht; simp [ht]

/-- The block goes on serving, and takes no word of the host's. -/
theorem Livelocked.step {s : State} (h : Livelocked s) : ∃ t, step s = .next t ∧ Livelocked t ∧ t.cmds = s.cmds := by
  obtain ⟨t, hstep⟩ := step_isNext h.ok h.control
  have hp := h.portOpen_eq_false
  obtain ⟨m, ms, hm, -⟩ | ⟨-, hcase⟩ := step_cases hstep
  · simp [h.undisturbed] at hm
  · refine ⟨t, hstep, ⟨?ok, ?undisturbed, ?control, ?storm, ?serving⟩, ?cmds⟩
    case ok => rw [step_keeps_cfg hstep]; exact h.ok
    case undisturbed => rw [hcase.keeps_moves]; simp [h.undisturbed]
    case control => exact hcase.keeps_controlInv h.control
    case storm => exact h.storm.imp (hcase.keeps_transmitStorm hp) (hcase.keeps_receiveStorm hp)
    case serving => exact hcase.keeps_serving hp h.serving
    case cmds => exact (step_takes_first_word hstep).resolve_right (by simp [hp])

/-- A live-lock has no end. -/
theorem Livelocked.run {s : State} (h : Livelocked s) (n : Nat) :
    ∃ t, Host.Core.run Sys2Proof.core n s = .next t ∧ Livelocked t ∧ t.cmds = s.cmds := by
  induction n generalizing s with
  | zero => exact ⟨s, run_zero s, h, rfl⟩
  | succ n ih =>
    obtain ⟨u, hstep, hu, hcu⟩ := h.step
    obtain ⟨t, hrun, ht, hct⟩ := ih hu
    exact ⟨t, (run_succ hstep n).trans hrun, ht, hct.trans hcu⟩

end Sys2Proof.Machine
end

section
open Sys2Proof Sys2Proof.Machine

/-- Settles O51: the state is live-locked (`Livelocked`), stays so along the run, and so never has an open port. -/
theorem unservableRequestLivelocks : Obligations.UnservableRequestLivelocks := by
  intro s n ho hm hs hc hg hu
  have hlive : Livelocked s := ⟨ho, hm, by simp [ControlInv, hs, hc], storm_of_unservable hu hs, .inr ⟨hs, hg⟩⟩
  obtain ⟨t, hrun, ht, hcmds⟩ := hlive.run n
  exact ⟨t, hrun, hcmds, by simp [runOver, ht.portOpen_eq_false]⟩

/-- Settles O56: the scheduled step is `blockReset` (`step_env`), whose port is open since GIE is 0. -/
theorem rstResetsTheBlock : Obligations.RstResetsTheBlock := by
  intro s ms ho hm
  refine ⟨blockReset (beginStep s), step_env ho hm nofun, ?_, blockReset_uart_reference (s := beginStep s),
    portOpen_blockReset _⟩
  simp [blockReset, hm]

end
